-- ==== Sys2Proof/Word.lean ====
section
/-! DEFINITION. The widths THE CORE works with (spec/00_scope.md R4, R5, R12, R13): every value is an unsigned
bit vector, and `+`, `-` wrap only where a rule says so. -/

namespace Sys2Proof

/-- A memory cell, a general register, a timer, an immediate `NN` (R4, R5, R7, R61). -/
abbrev Byte := BitVec 8

/-- An instruction word, `pc`, `I`, a stack entry, a status word (R12, R23 to R25, R34, R35). -/
abbrev Word := BitVec 16

/-- A register number, a row count `N`, a keypad index (R9, R61, R64). -/
abbrev Nibble := BitVec 4

/-- An address field `NNN` (R61). -/
abbrev Addr := BitVec 12

/-- `bool(c)` of R13 as an 8-bit value, the form in which VF holds a flag. -/
def flagByte (c : Bool) : Byte := if c then 1#8 else 0#8

end Sys2Proof
end

