-- ==== Sys2Proof/Syntax.lean ====
section
/-! DEFINITION. The 34 instructions of spec/opcode_table.json, one constructor a row, in the table's order. A field's
width is its type (spec/30_encoding.md R61, R64), so no register number, immediate or address is out of range. -/

namespace Sys2Proof

/-- The instructions (spec/30_encoding.md R62, R65, R72; the docstrings give R72's assembler form). -/
inductive Instr where
  /-- 00E0 `CLS` (R130). -/
  | cls
  /-- 00EE `RET` (R90). -/
  | ret
  /-- 1NNN `JP addr` (R91). -/
  | jp (nnn : Addr)
  /-- 2NNN `CALL addr` (R92). -/
  | call (nnn : Addr)
  /-- 3XNN `SE Vx, byte` (R93). -/
  | seImm (x : Nibble) (nn : Byte)
  /-- 4XNN `SNE Vx, byte` (R94). -/
  | sneImm (x : Nibble) (nn : Byte)
  /-- 5XY0 `SE Vx, Vy` (R95). -/
  | seReg (x y : Nibble)
  /-- 9XY0 `SNE Vx, Vy` (R96). -/
  | sneReg (x y : Nibble)
  /-- BNNN `JP V0, addr` (R97). -/
  | jpV0 (nnn : Addr)
  /-- 6XNN `LD Vx, byte` (R100). -/
  | ldImm (x : Nibble) (nn : Byte)
  /-- 7XNN `ADD Vx, byte` (R101). -/
  | addImm (x : Nibble) (nn : Byte)
  /-- 8XY0 `LD Vx, Vy` (R102). -/
  | ldReg (x y : Nibble)
  /-- 8XY1 `OR Vx, Vy` (R103). -/
  | orReg (x y : Nibble)
  /-- 8XY2 `AND Vx, Vy` (R104). -/
  | andReg (x y : Nibble)
  /-- 8XY3 `XOR Vx, Vy` (R105). -/
  | xorReg (x y : Nibble)
  /-- 8XY4 `ADD Vx, Vy` (R106). -/
  | addReg (x y : Nibble)
  /-- 8XY5 `SUB Vx, Vy` (R107). -/
  | sub (x y : Nibble)
  /-- 8XY6 `SHR Vx` (R108). The Y field is encoded and not read; it is kept so that no bit of the word is lost (log 16). -/
  | shr (x y : Nibble)
  /-- 8XY7 `SUBN Vx, Vy` (R109). -/
  | subn (x y : Nibble)
  /-- 8XYE `SHL Vx` (R110). The Y field is encoded and not read (log 16). -/
  | shl (x y : Nibble)
  /-- CXNN `RND Vx, byte` (R111). -/
  | rnd (x : Nibble) (nn : Byte)
  /-- ANNN `LD I, addr` (R120). -/
  | ldI (nnn : Addr)
  /-- FX1E `ADD I, Vx` (R121). -/
  | addIVx (x : Nibble)
  /-- FX29 `LD F, Vx` (R122). -/
  | ldFVx (x : Nibble)
  /-- FX33 `LD B, Vx` (R123). -/
  | ldBVx (x : Nibble)
  /-- FX55 `LD [I], Vx` (R124). -/
  | ldMemVx (x : Nibble)
  /-- FX65 `LD Vx, [I]` (R125). -/
  | ldVxMem (x : Nibble)
  /-- DXYN `DRW Vx, Vy, nibble` (R131). -/
  | drw (x y n : Nibble)
  /-- EX9E `SKP Vx` (R140). -/
  | skp (x : Nibble)
  /-- EXA1 `SKNP Vx` (R141). -/
  | sknp (x : Nibble)
  /-- FX07 `LD Vx, DT` (R142). -/
  | ldVxDt (x : Nibble)
  /-- FX0A `LD Vx, K` (R143). -/
  | ldVxK (x : Nibble)
  /-- FX15 `LD DT, Vx` (R144). -/
  | ldDtVx (x : Nibble)
  /-- FX18 `LD ST, Vx` (R145). -/
  | ldStVx (x : Nibble)
  deriving DecidableEq, Repr

/-- The classes of words that are no instruction (R68), in the order of its table. -/
inductive InvalidClass where
  /-- 0x0NNN other than 0x00E0 and 0x00EE. -/
  | zero
  /-- 0x5XYn, n ≠ 0. -/
  | five
  /-- 0x8XYn, n one of 8, 9, A, B, C, D, F. -/
  | eight
  /-- 0x9XYn, n ≠ 0. -/
  | nine
  /-- 0xEXnn, nn neither 9E nor A1. -/
  | e
  /-- 0xFXnn, nn none of the nine low bytes of the F family. -/
  | f
  deriving DecidableEq, Repr

/-- An operand as R72 writes it: a number in its syntactic class. -/
inductive Operand where
  | reg (k : Nat)
  | byte (b : Nat)
  | nibble (n : Nat)
  | addr (a : Nat)
  deriving DecidableEq, Repr

/-- The operands of an instruction in R72's order, as numbers. `SHR` and `SHL` show the optional `Vy`. -/
def Instr.operands : Instr → List Operand
  | .cls | .ret => []
  | .jp a | .call a | .ldI a => [.addr a.toNat]
  | .jpV0 a => [.reg 0, .addr a.toNat]
  | .seImm x b | .sneImm x b | .ldImm x b | .addImm x b | .rnd x b => [.reg x.toNat, .byte b.toNat]
  | .seReg x y | .sneReg x y | .ldReg x y | .orReg x y | .andReg x y | .xorReg x y | .addReg x y
  | .sub x y | .shr x y | .subn x y | .shl x y => [.reg x.toNat, .reg y.toNat]
  | .drw x y n => [.reg x.toNat, .reg y.toNat, .nibble n.toNat]
  | .addIVx x | .ldFVx x | .ldBVx x | .ldMemVx x | .ldVxMem x | .skp x | .sknp x
  | .ldVxDt x | .ldVxK x | .ldDtVx x | .ldStVx x => [.reg x.toNat]

/-- An item of a listing (R73): an instruction, `DB` bytes, or a `DW` word with its high byte first. -/
inductive Item where
  | instr (i : Instr)
  | db (bytes : List Byte)
  | dw (w : Word)
  deriving DecidableEq, Repr

end Sys2Proof
end

