-- ==== Sys2Proof/WellFormed.lean ====
section
/-! DEFINITION. What is well formed: an operand in its class's range (spec/30_encoding.md R61, R64, R72), an instruction
whose operands are, and a program the Loader takes (spec/00_scope.md R10, spec/70_reset_and_hazards.md R182). -/

namespace Sys2Proof

/-- R61, R64, R72: registers V0 to VF, bytes of 8 bits, nibbles of 4, addresses of 12. -/
def Operand.wellFormed : Operand → Bool
  | .reg k => decide (k < 16)
  | .byte b => decide (b < 256)
  | .nibble n => decide (n < 16)
  | .addr a => decide (a < 4096)

/-- Every operand of the instruction is in range. The field types make this hold of every `Instr` (R64). -/
def Instr.wellFormed (i : Instr) : Bool := i.operands.all Operand.wellFormed

/-- `MAX_PROGRAM` of R10. -/
def maxProgram : Nat := 3584

/-- A program the Load event takes (R182): at most `MAX_PROGRAM` bytes, the empty one included. -/
def programWellFormed (p : List Byte) : Bool := decide (p.length ≤ maxProgram)

end Sys2Proof
end

