-- ==== Sys2Proof/Decode.lean ====
section
/-! DEFINITION. The decoder of spec/30_encoding.md R65, total on every word and on every list of bytes, rejecting by the
class of R68; then the encoder, from the formats of R62. -/

namespace Sys2Proof

/-! ### The fields of R61 -/

/-- `op[15:12]`. -/
def fieldTop (op : Word) : Nibble := op.extractLsb' 12 4
/-- `X = op[11:8]`. -/
def fieldX (op : Word) : Nibble := op.extractLsb' 8 4
/-- `Y = op[7:4]`. -/
def fieldY (op : Word) : Nibble := op.extractLsb' 4 4
/-- `N = op[3:0]`. -/
def fieldN (op : Word) : Nibble := op.extractLsb' 0 4
/-- `NN = op[7:0]`. -/
def fieldNN (op : Word) : Byte := op.extractLsb' 0 8
/-- `NNN = op[11:0]`. -/
def fieldNNN (op : Word) : Addr := op.extractLsb' 0 12

/-! ### Decoding -/

/-- The 0x0 family of R65. -/
def decodeZero (op : Word) : Except InvalidClass Instr :=
  if op = 0x00E0#16 then .ok .cls
  else if op = 0x00EE#16 then .ok .ret
  else .error .zero

/-- The 0x8 family of R65, by `op[3:0]`. -/
def decodeEight (op : Word) : Except InvalidClass Instr :=
  match (fieldN op).toNat with
  | 0x0 => .ok (.ldReg (fieldX op) (fieldY op))
  | 0x1 => .ok (.orReg (fieldX op) (fieldY op))
  | 0x2 => .ok (.andReg (fieldX op) (fieldY op))
  | 0x3 => .ok (.xorReg (fieldX op) (fieldY op))
  | 0x4 => .ok (.addReg (fieldX op) (fieldY op))
  | 0x5 => .ok (.sub (fieldX op) (fieldY op))
  | 0x6 => .ok (.shr (fieldX op) (fieldY op))
  | 0x7 => .ok (.subn (fieldX op) (fieldY op))
  | 0xE => .ok (.shl (fieldX op) (fieldY op))
  | _   => .error .eight

/-- The 0xE family of R65, by `op[7:0]`. -/
def decodeE (op : Word) : Except InvalidClass Instr :=
  match (fieldNN op).toNat with
  | 0x9E => .ok (.skp (fieldX op))
  | 0xA1 => .ok (.sknp (fieldX op))
  | _    => .error .e

/-- The 0xF family of R65, by `op[7:0]`. -/
def decodeF (op : Word) : Except InvalidClass Instr :=
  match (fieldNN op).toNat with
  | 0x07 => .ok (.ldVxDt (fieldX op))
  | 0x0A => .ok (.ldVxK (fieldX op))
  | 0x15 => .ok (.ldDtVx (fieldX op))
  | 0x18 => .ok (.ldStVx (fieldX op))
  | 0x1E => .ok (.addIVx (fieldX op))
  | 0x29 => .ok (.ldFVx (fieldX op))
  | 0x33 => .ok (.ldBVx (fieldX op))
  | 0x55 => .ok (.ldMemVx (fieldX op))
  | 0x65 => .ok (.ldVxMem (fieldX op))
  | _    => .error .f

/-- R65: the one instruction a word stands for, or the class of INVALID word it is in (R68). The last arm is 0xF, the
only nibble left. -/
def decode (op : Word) : Except InvalidClass Instr :=
  match (fieldTop op).toNat with
  | 0x0 => decodeZero op
  | 0x1 => .ok (.jp (fieldNNN op))
  | 0x2 => .ok (.call (fieldNNN op))
  | 0x3 => .ok (.seImm (fieldX op) (fieldNN op))
  | 0x4 => .ok (.sneImm (fieldX op) (fieldNN op))
  | 0x5 => if fieldN op = 0x0#4 then .ok (.seReg (fieldX op) (fieldY op)) else .error .five
  | 0x6 => .ok (.ldImm (fieldX op) (fieldNN op))
  | 0x7 => .ok (.addImm (fieldX op) (fieldNN op))
  | 0x8 => decodeEight op
  | 0x9 => if fieldN op = 0x0#4 then .ok (.sneReg (fieldX op) (fieldY op)) else .error .nine
  | 0xA => .ok (.ldI (fieldNNN op))
  | 0xB => .ok (.jpV0 (fieldNNN op))
  | 0xC => .ok (.rnd (fieldX op) (fieldNN op))
  | 0xD => .ok (.drw (fieldX op) (fieldY op) (fieldN op))
  | 0xE => decodeE op
  | _   => decodeF op

/-- The word is INVALID (R68). -/
def isInvalid (op : Word) : Bool :=
  match decode op with
  | .ok _ => false
  | .error _ => true

/-! ### Bytes (spec/20_memory.md R44, spec/30_encoding.md R60) -/

/-- Two bytes as the word they hold, the first in bits 15:8 (R15, R44). -/
def wordOfBytes (hi lo : Byte) : Word := hi ++ lo

/-- `op[15:8]`, the byte at the lower address (R44). -/
def highByte (op : Word) : Byte := op.extractLsb' 8 8

/-- `op[7:0]`, the byte at the higher address (R44). -/
def lowByte (op : Word) : Byte := op.extractLsb' 0 8

/-- Why bytes do not start with an instruction. -/
inductive DecodeError where
  /-- Fewer than two bytes are left (R60: every instruction is two bytes). -/
  | truncated
  /-- The first word is INVALID, in this class of R68. -/
  | invalid (c : InvalidClass)
  deriving DecidableEq, Repr

/-- The first instruction of a list of bytes and the bytes after it (R44, R60). -/
def decodeBytes : List Byte → Except DecodeError (Instr × List Byte)
  | hi :: lo :: rest =>
    match decode (wordOfBytes hi lo) with
    | .ok i => .ok (i, rest)
    | .error c => .error (.invalid c)
  | _ => .error .truncated

/-- The host's view of the decoder: the word `w` of the opcode table, its bits above `nbits` zero, laid out high byte
first (R44), through `decodeBytes`. -/
def decodeTableWord (nbits w : Nat) : Option Instr :=
  let op : Word := BitVec.ofNat 16 (w % 2 ^ nbits)
  match decodeBytes [highByte op, lowByte op] with
  | .ok (i, _) => some i
  | .error _ => none

/-! ### Encoding (R62) -/

/-- Format `FIXED`: the exact word. -/
def encFixed (w : Word) : Word := w
/-- Format `ADDR`: `oooo nnnn nnnn nnnn`. -/
def encAddr (o : Nibble) (nnn : Addr) : Word := o ++ nnn
/-- Format `REG_IMM`: `oooo xxxx nnnn nnnn`. -/
def encRegImm (o x : Nibble) (nn : Byte) : Word := (o ++ x) ++ nn
/-- Formats `REG_REG` and `DRAW`: `oooo xxxx yyyy ffff`. -/
def encRegReg (o x y f : Nibble) : Word := (o ++ x) ++ (y ++ f)
/-- Format `REG`: `oooo xxxx ffff ffff`. -/
def encReg (o x : Nibble) (ff : Byte) : Word := (o ++ x) ++ ff

/-- The word of an instruction (R62, R72). -/
def encode : Instr → Word
  | .cls         => encFixed 0x00E0
  | .ret         => encFixed 0x00EE
  | .jp a        => encAddr 0x1 a
  | .call a      => encAddr 0x2 a
  | .seImm x b   => encRegImm 0x3 x b
  | .sneImm x b  => encRegImm 0x4 x b
  | .seReg x y   => encRegReg 0x5 x y 0x0
  | .sneReg x y  => encRegReg 0x9 x y 0x0
  | .jpV0 a      => encAddr 0xB a
  | .ldImm x b   => encRegImm 0x6 x b
  | .addImm x b  => encRegImm 0x7 x b
  | .ldReg x y   => encRegReg 0x8 x y 0x0
  | .orReg x y   => encRegReg 0x8 x y 0x1
  | .andReg x y  => encRegReg 0x8 x y 0x2
  | .xorReg x y  => encRegReg 0x8 x y 0x3
  | .addReg x y  => encRegReg 0x8 x y 0x4
  | .sub x y     => encRegReg 0x8 x y 0x5
  | .shr x y     => encRegReg 0x8 x y 0x6
  | .subn x y    => encRegReg 0x8 x y 0x7
  | .shl x y     => encRegReg 0x8 x y 0xE
  | .rnd x b     => encRegImm 0xC x b
  | .ldI a       => encAddr 0xA a
  | .addIVx x    => encReg 0xF x 0x1E
  | .ldFVx x     => encReg 0xF x 0x29
  | .ldBVx x     => encReg 0xF x 0x33
  | .ldMemVx x   => encReg 0xF x 0x55
  | .ldVxMem x   => encReg 0xF x 0x65
  | .drw x y n   => encRegReg 0xD x y n
  | .skp x       => encReg 0xE x 0x9E
  | .sknp x      => encReg 0xE x 0xA1
  | .ldVxDt x    => encReg 0xF x 0x07
  | .ldVxK x     => encReg 0xF x 0x0A
  | .ldDtVx x    => encReg 0xF x 0x15
  | .ldStVx x    => encReg 0xF x 0x18

/-- The bytes of a word as memory holds them (R44). -/
def bytesOfWord (w : Word) : List Byte := [highByte w, lowByte w]

/-- The bytes of an item of a listing (R73). -/
def itemBytes : Item → List Byte
  | .instr i => bytesOfWord (encode i)
  | .db bytes => bytes
  | .dw w => bytesOfWord w

/-- The program image of a listing (R73). -/
def assemble (items : List Item) : List Byte := items.flatMap itemBytes

/-! ### The opcode table as rows (spec/opcode_table.json), a second reading of the same encodings -/

/-- The row of the opcode table an instruction belongs to: its constant digits. -/
structure OpcodeRow where
  mnemonic : String
  pattern  : Word
  mask     : Word
  deriving DecidableEq, Repr

/-- The rows of families 0 to 7 and A to D that one digit or the whole word selects. -/
def opcodeRowsByDigit : List OpcodeRow :=
  [⟨"CLS", 0x00E0, 0xFFFF⟩, ⟨"RET", 0x00EE, 0xFFFF⟩, ⟨"JP", 0x1000, 0xF000⟩, ⟨"CALL", 0x2000, 0xF000⟩,
   ⟨"SE_IMM", 0x3000, 0xF000⟩, ⟨"SNE_IMM", 0x4000, 0xF000⟩, ⟨"SE_REG", 0x5000, 0xF00F⟩,
   ⟨"SNE_REG", 0x9000, 0xF00F⟩, ⟨"JP_V0", 0xB000, 0xF000⟩, ⟨"LD_IMM", 0x6000, 0xF000⟩,
   ⟨"ADD_IMM", 0x7000, 0xF000⟩, ⟨"RND", 0xC000, 0xF000⟩, ⟨"LD_I", 0xA000, 0xF000⟩, ⟨"DRW", 0xD000, 0xF000⟩]

/-- The rows of the 0x8 family. -/
def opcodeRowsEight : List OpcodeRow :=
  [⟨"LD_REG", 0x8000, 0xF00F⟩, ⟨"OR", 0x8001, 0xF00F⟩, ⟨"AND", 0x8002, 0xF00F⟩, ⟨"XOR", 0x8003, 0xF00F⟩,
   ⟨"ADD_REG", 0x8004, 0xF00F⟩, ⟨"SUB", 0x8005, 0xF00F⟩, ⟨"SHR", 0x8006, 0xF00F⟩, ⟨"SUBN", 0x8007, 0xF00F⟩,
   ⟨"SHL", 0x800E, 0xF00F⟩]

/-- The rows of the 0xE and 0xF families. -/
def opcodeRowsEF : List OpcodeRow :=
  [⟨"SKP", 0xE09E, 0xF0FF⟩, ⟨"SKNP", 0xE0A1, 0xF0FF⟩, ⟨"LD_VX_DT", 0xF007, 0xF0FF⟩, ⟨"LD_VX_K", 0xF00A, 0xF0FF⟩,
   ⟨"LD_DT_VX", 0xF015, 0xF0FF⟩, ⟨"LD_ST_VX", 0xF018, 0xF0FF⟩, ⟨"ADD_I_VX", 0xF01E, 0xF0FF⟩,
   ⟨"LD_F_VX", 0xF029, 0xF0FF⟩, ⟨"LD_B_VX", 0xF033, 0xF0FF⟩, ⟨"LD_MEM_VX", 0xF055, 0xF0FF⟩,
   ⟨"LD_VX_MEM", 0xF065, 0xF0FF⟩]

/-- The 34 rows. -/
def opcodeRows : List OpcodeRow := opcodeRowsByDigit ++ opcodeRowsEight ++ opcodeRowsEF

/-- Every constant digit of the row's pattern matches (R66). -/
def rowMatches (r : OpcodeRow) (op : Word) : Bool := op &&& r.mask == r.pattern

/-- An instruction's mnemonic in spec/opcode_table.json. -/
def mnemonic : Instr → String
  | .cls => "CLS"
  | .ret => "RET"
  | .jp _ => "JP"
  | .call _ => "CALL"
  | .seImm _ _ => "SE_IMM"
  | .sneImm _ _ => "SNE_IMM"
  | .seReg _ _ => "SE_REG"
  | .sneReg _ _ => "SNE_REG"
  | .jpV0 _ => "JP_V0"
  | .ldImm _ _ => "LD_IMM"
  | .addImm _ _ => "ADD_IMM"
  | .ldReg _ _ => "LD_REG"
  | .orReg _ _ => "OR"
  | .andReg _ _ => "AND"
  | .xorReg _ _ => "XOR"
  | .addReg _ _ => "ADD_REG"
  | .sub _ _ => "SUB"
  | .shr _ _ => "SHR"
  | .subn _ _ => "SUBN"
  | .shl _ _ => "SHL"
  | .rnd _ _ => "RND"
  | .ldI _ => "LD_I"
  | .addIVx _ => "ADD_I_VX"
  | .ldFVx _ => "LD_F_VX"
  | .ldBVx _ => "LD_B_VX"
  | .ldMemVx _ => "LD_MEM_VX"
  | .ldVxMem _ => "LD_VX_MEM"
  | .drw _ _ _ => "DRW"
  | .skp _ => "SKP"
  | .sknp _ => "SKNP"
  | .ldVxDt _ => "LD_VX_DT"
  | .ldVxK _ => "LD_VX_K"
  | .ldDtVx _ => "LD_DT_VX"
  | .ldStVx _ => "LD_ST_VX"

end Sys2Proof
end

