-- ==== Sys2Proof/Config.lean ====
section
/-! DEFINITION. What an implementation fixes (spec/00_scope.md R11) and the free values: the byte of memory nothing has
written (R181), the random byte (R17, R111) and the key picked among several (R17, R143). -/

namespace Sys2Proof

/-- `TIMER_MODE` of R11: who decrements the timers (R86, R160). -/
inductive TimerMode where
  | decoupled
  | perStep
  deriving DecidableEq, Repr

/-- `BEEP_POLICY` of R11: when the beep flag is set (R162). -/
inductive BeepPolicy where
  | whileNonzero
  | onExpiry
  deriving DecidableEq, Repr

/-- `KEY_SELECT` of R11: which pressed key FX0A takes (R143). -/
inductive KeySelect where
  | lowest
  | any
  deriving DecidableEq, Repr

/-- The parameters of R11 that are plain data; `State.cfg` holds one and no event changes it (log 3). -/
structure Config where
  timerMode  : TimerMode
  beepPolicy : BeepPolicy
  keySelect  : KeySelect
  font       : Vector Byte 80
  deriving DecidableEq, Repr

/-- The sixteen glyphs of R37's default table, five bytes each. PRESUMED: the spec takes the bytes from general
knowledge (G1, log 2). -/
def Config.glyphs0to3 : List Byte :=
  [0xF0, 0x90, 0x90, 0x90, 0xF0] ++ [0x20, 0x60, 0x20, 0x20, 0x70] ++
  [0xF0, 0x10, 0xF0, 0x80, 0xF0] ++ [0xF0, 0x10, 0xF0, 0x10, 0xF0]

/-- Glyphs 4 to 7 of R37's default table. -/
def Config.glyphs4to7 : List Byte :=
  [0x90, 0x90, 0xF0, 0x10, 0x10] ++ [0xF0, 0x80, 0xF0, 0x10, 0xF0] ++
  [0xF0, 0x80, 0xF0, 0x90, 0xF0] ++ [0xF0, 0x10, 0x20, 0x40, 0x40]

/-- Glyphs 8 to B of R37's default table. -/
def Config.glyphs8toB : List Byte :=
  [0xF0, 0x90, 0xF0, 0x90, 0xF0] ++ [0xF0, 0x90, 0xF0, 0x10, 0xF0] ++
  [0xF0, 0x90, 0xF0, 0x90, 0x90] ++ [0xE0, 0x90, 0xE0, 0x90, 0xE0]

/-- Glyphs C to F of R37's default table. -/
def Config.glyphsCtoF : List Byte :=
  [0xF0, 0x80, 0x80, 0x80, 0xF0] ++ [0xE0, 0x90, 0x90, 0x90, 0xE0] ++
  [0xF0, 0x80, 0xF0, 0x80, 0xF0] ++ [0xF0, 0x80, 0xF0, 0x80, 0x80]

/-- The default `FONT` of R37 as one list of 80 bytes. -/
def Config.defaultFontBytes : List Byte :=
  Config.glyphs0to3 ++ Config.glyphs4to7 ++ Config.glyphs8toB ++ Config.glyphsCtoF

/-- The default `FONT` of R37. -/
def Config.defaultFont : Vector Byte 80 := ⟨Config.defaultFontBytes.toArray, by decide⟩

/-- The spec's defaults for the parameters of R11. -/
def Config.default : Config where
  timerMode  := .decoupled
  beepPolicy := .whileNonzero
  keySelect  := .lowest
  font       := Config.defaultFont

/-- FREE VALUE. `MEM_INIT` of R11: the byte at an address of 0x050 to 0xFFF that nothing has written (R181, log 1). -/
opaque Config.memInit : Nat → Byte

/-- FREE VALUE. The byte the random source gives at the `n`-th free draw (R17, R111, log 4). -/
opaque Config.rndByte : Nat → Byte

/-- FREE VALUE. Which of the pressed keys the `n`-th free draw names, counted modulo their number (R17, R143, log 5). -/
opaque Config.keyDraw : Nat → Nat

end Sys2Proof
end

