-- ==== Sys2Proof/Machine/State.lean ====
section
/-! DEFINITION. The state of THE CORE (spec/10_state.md R20 to R39) as plain data, the host's events (spec/00_scope.md
R18), the reasons a step stops, and the state after Reset (R39). -/

namespace Sys2Proof.Machine

/-- `MODE` (R33). -/
inductive Mode where
  | running
  | awaitingKey
  | halted
  deriving DecidableEq, Repr

/-- `FAULT_CODE` (R35, R150); `none` is code 0, no fault since Reset. -/
inductive FaultCode where
  | none
  | stackOverflow
  | stackUnderflow
  | addressOutOfRange
  | keyIndexOutOfRange
  deriving DecidableEq, Repr

/-- What the host brings to a Load (R182 to R184): the program's bytes, or none because it could not read them. -/
inductive LoadRequest where
  | bytes (p : List Byte)
  | unreadable
  deriving DecidableEq, Repr

/-- The result of a Load (R156). -/
inductive LoadResult where
  | ok
  | loadFailure
  | programOutOfRange
  deriving DecidableEq, Repr

/-- The read-only status words of R36. -/
inductive StatusPort where
  | corestat
  | invOpcode
  | invPc
  | faultPc
  | faultOpcode
  deriving DecidableEq, Repr

/-- The events of R18, in whatever order the host issues them (R158), the two inputs of a Step that are bytes of the
host's (R17), and a host write to a status port, which R36 gives no effect. -/
inductive Event where
  | reset
  | load (req : LoadRequest)
  | step
  | tick
  | hostKey (k : Nibble) (b : Bool)
  | hostClearRedraw
  | hostClearBeep
  | presentRnd (b : Byte)
  | presentKeyPick (k : Nibble)
  | writeStatus (port : StatusPort) (value : Word)
  deriving DecidableEq, Repr

/-- `MEM` (R37, R40) as the bytes that differ from what an unlisted address reads as, by strictly rising address
(`Memory.wf`, `Memory.unlisted` in Machine/Ops.lean; log 1). -/
abbrev Memory := List Host.Cell

/-- The framebuffer (R29), row-major: 32 rows of 64 one-bit cells. Bit `x` of row `y` is the cell `FB[y * 64 + x]`
(log 13). -/
abbrev Framebuffer := Vector (BitVec 64) 32

/-- THE CORE's state (R20), the host-owned keypad (R32), the parameters (R11), and the model's own record of the host's
side of the interface. -/
structure State where
  /-- `V[0..15]` (R21, R22). -/
  v           : Vector Byte 16
  /-- `pc` (R23). -/
  pc          : Word
  /-- `I` (R24). -/
  i           : Word
  /-- `STACK[0..15]` (R25). -/
  stack       : Vector Word 16
  /-- `SP`, 0 to 16 (R26). -/
  sp          : Fin 17
  /-- `DT` (R27). -/
  dt          : Byte
  /-- `ST` (R28). -/
  st          : Byte
  /-- `FB[0..2047]` (R29). -/
  fb          : Framebuffer
  /-- `REDRAW` (R30). -/
  redraw      : Bool
  /-- `BEEP` (R31). -/
  beep        : Bool
  /-- `MODE` (R33). -/
  mode        : Mode
  /-- `INV_SEEN` (R34). -/
  invSeen     : Bool
  /-- `INV_OPCODE` (R34). -/
  invOpcode   : Word
  /-- `INV_PC` (R34). -/
  invPc       : Word
  /-- `FAULT_CODE` (R35). -/
  faultCode   : FaultCode
  /-- `FAULT_PC` (R35). -/
  faultPc     : Word
  /-- `FAULT_OPCODE` (R35). -/
  faultOpcode : Word
  /-- `MEM[0..4095]` (R37, R40). -/
  mem         : Memory
  /-- `KEY[0..15]` (R32). -/
  key         : Vector Bool 16
  /-- The parameters of R11, fixed for a machine (log 3). -/
  cfg         : Config
  /-- The bytes the random source has ready, next first; past them the draw is free (R17, R166, log 4). -/
  rnd         : List Byte
  /-- The keys `KEYPICK` names, next first; past them the pick is free (R17, log 5). -/
  keyPick     : List Nibble
  /-- How many free values have been drawn (log 6). -/
  draws       : Nat
  /-- The result of the last Load since Reset (R156, log 9). -/
  loadResult  : Option LoadResult
  /-- The events the host issues next, in order; past them it issues Steps (R18, R158, log 7). -/
  agenda      : List Event
  deriving DecidableEq, Repr

/-- Why a step stops outside the spec's own states. The spec's fatal faults (R150) are not here: each is a NEXT state
with `MODE = Halted` (R153). -/
inductive Fault where
  /-- Raised by the Step event when the last Load failed: the host must not issue it (R183, R184, I23). Safe: nothing is
  claimed of what follows (log 9). -/
  | stepAfterFailedLoad
  deriving DecidableEq, Repr

/-- Why an instruction has no meaning. -/
inductive Refusal where
  /-- Raised by an arm of `exec` for an instruction that has no meaning yet; no arm of this model raises it. Safe. -/
  | notModelled (mnemonic : String)
  deriving DecidableEq, Repr

/-- The state after the Reset event at power-on (R39, R180): `MEM[0x000..0x04F]` reads as `FONT` and the rest as
`MEM_INIT` because nothing is listed. `key`, `cfg` and the fields after them are the model's choice (logs 3 to 9). -/
def State.reset : State where
  v           := Vector.replicate 16 0#8
  pc          := 0x200#16
  i           := 0#16
  stack       := Vector.replicate 16 0#16
  sp          := 0
  dt          := 0#8
  st          := 0#8
  fb          := Vector.replicate 32 0#64
  redraw      := false
  beep        := false
  mode        := .running
  invSeen     := false
  invOpcode   := 0#16
  invPc       := 0#16
  faultCode   := .none
  faultPc     := 0#16
  faultOpcode := 0#16
  mem         := []
  key         := Vector.replicate 16 false
  cfg         := Config.default
  rnd         := []
  keyPick     := []
  draws       := 0
  loadResult  := none
  agenda      := []

end Sys2Proof.Machine
end

