-- ==== Sys2Proof/Machine/Ops.lean ====
section
/-! DEFINITION. The named operations over memory, registers, the stack and the framebuffer, the end of an instruction
(spec/40_step.md R84, R87), taking a fault (spec/60_exceptions.md R153) and, beside it, the Reset that alone leaves
Halted (spec/70_reset_and_hazards.md R180). -/

namespace Sys2Proof.Machine

/-- What an instruction's meaning answers. -/
abbrev Result := Host.Outcome State Fault Refusal

/-! ### Memory (spec/00_scope.md R15, spec/20_memory.md) -/

/-- `MEM_SIZE` (R4). -/
def memSize : Nat := 4096

/-- What is known of the byte at an address nothing has written: in 0x000 to 0x04F the default `FONT` (R37), above it
nothing (R181, log 1). -/
def Memory.unlisted (a : Nat) : Option Byte :=
  if h : a < 80 then some (Config.defaultFont[a]'h) else none

/-- The byte listed at an address, if any. -/
def Memory.listed : Memory → Nat → Option Byte
  | [], _ => none
  | (k, x) :: m, a => if k = a then some x else Memory.listed m a

/-- `MemRead(a, 1)`: the byte at `a mod 4096` (R15). One nothing has written is the free value `MEM_INIT` (R181). -/
def Memory.read (m : Memory) (a : Nat) : Byte :=
  match Memory.listed m (a % memSize) with
  | some x => x
  | none =>
    match Memory.unlisted (a % memSize) with
    | some x => x
    | none => Config.memInit (a % memSize)

/-- List a byte at its place, in place of the one listed there. -/
def Memory.insert : Memory → Nat → Byte → Memory
  | [], a, b => [(a, b)]
  | (k, x) :: m, a, b =>
    if a < k then (a, b) :: (k, x) :: m
    else if a = k then (a, b) :: m
    else (k, x) :: Memory.insert m a b

/-- Unlist an address, every entry of it. -/
def Memory.erase : Memory → Nat → Memory
  | [], _ => []
  | (k, x) :: m, a => if k = a then Memory.erase m a else (k, x) :: Memory.erase m a

/-- `MemWrite(a, 1, v)`: the byte at `a mod 4096` (R15); a byte equal to what the address reads as unlisted is not kept. -/
def Memory.write (m : Memory) (a : Nat) (b : Byte) : Memory :=
  if Memory.unlisted (a % memSize) = some b then Memory.erase m (a % memSize)
  else Memory.insert m (a % memSize) b

/-- Bytes at consecutive addresses, the first at `a`. -/
def Memory.writeBytes (m : Memory) (a : Nat) : List Byte → Memory
  | [] => m
  | b :: bs => Memory.writeBytes (Memory.write m a b) (a + 1) bs

/-- `MemRead(a, 2)`: the first byte in the high half (R15, R44). -/
def Memory.readWord (m : Memory) (a : Nat) : Word := wordOfBytes (Memory.read m a) (Memory.read m (a + 1))

/-- The addresses of a list rise strictly and lie above a bound. -/
def Memory.risingFrom : Nat → Memory → Bool
  | _, [] => true
  | lo, (k, _) :: m => decide (lo ≤ k) && Memory.risingFrom (k + 1) m

/-- The canonical form: addresses strictly rising and inside the address space, and no entry that says what its address
reads as unlisted (log 1). -/
def Memory.wf (m : Memory) : Bool :=
  Memory.risingFrom 0 m && m.all fun c => decide (c.1 < memSize) && decide (Memory.unlisted c.1 ≠ some c.2)

/-! ### Registers (spec/10_state.md R21 to R24) -/

/-- A read of `V[x]` (R14). -/
def State.getV (s : State) (x : Nibble) : Byte := s.v[x.toNat]'x.isLt

/-- `V[x] <- b` (R14). -/
def State.setV (s : State) (x : Nibble) (b : Byte) : State := { s with v := s.v.set x.toNat b x.isLt }

/-- VF as the flag destination (R22): `V[15] <- bool(c)`. -/
def State.setFlag (s : State) (c : Bool) : State := s.setV 0xF (flagByte c)

/-- A number modulo 4096 as a 16-bit word, bits 15:12 zero (R23, R24). -/
def wrap12 (n : Nat) : Word := BitVec.ofNat 16 (n % 4096)

/-- `pc <- n mod 4096` (R23). -/
def State.setPc (s : State) (n : Nat) : State := { s with pc := wrap12 n }

/-- `I <- n mod 4096` (R24). -/
def State.setI (s : State) (n : Nat) : State := { s with i := wrap12 n }

/-- `pc <- (pc + k) mod 4096` (R19, R84). -/
def State.advance (s : State) (k : Nat) : State := s.setPc (s.pc.toNat + k)

/-! ### The call stack (spec/10_state.md R25, R26) -/

/-- `STACK[SP] <- w; SP <- SP + 1`, for a stack that is not full (R92). -/
def State.push (s : State) (w : Word) (h : s.sp.val < 16) : State :=
  { s with stack := s.stack.set s.sp.val w h, sp := ⟨s.sp.val + 1, Nat.succ_lt_succ h⟩ }

/-- `STACK[SP - 1]`, the entry a return takes from a stack that is not empty (R90). -/
def State.top (s : State) : Word := s.stack[s.sp.val - 1]'(by have := s.sp.isLt; omega)

/-- `SP <- SP - 1`; the entry keeps its value (R90). -/
def State.drop (s : State) : State := { s with sp := ⟨s.sp.val - 1, by have := s.sp.isLt; omega⟩ }

/-! ### The framebuffer (spec/10_state.md R29) -/

/-- The row of the cell `FB[k]`. -/
def rowOf (k : Nat) : Nat := k / 64 % 32

theorem rowOf_lt (k : Nat) : rowOf k < 32 := Nat.mod_lt _ (by decide)

/-- `FB[k]`, for `k` of 0 to 2047. -/
def Framebuffer.cell (fb : Framebuffer) (k : Nat) : Bool := (fb[rowOf k]'(rowOf_lt k)).getLsbD (k % 64)

/-- `FB[k] <- not FB[k]`, for `k` of 0 to 2047. -/
def Framebuffer.toggle (fb : Framebuffer) (k : Nat) : Framebuffer :=
  fb.set (rowOf k) ((fb[rowOf k]'(rowOf_lt k)) ^^^ BitVec.twoPow 64 (k % 64)) (rowOf_lt k)

/-- The index of the cell at column `x mod 64` and row `y mod 32` (R29, R131). -/
def cellIndex (x y : Nat) : Nat := (y % 32) * 64 + x % 64

/-! ### The keypad (spec/10_state.md R32) -/

/-- `KEY[k]`. -/
def State.keyDown (s : State) (k : Nibble) : Bool := s.key[k.toNat]'k.isLt

/-! ### The end of an instruction (spec/40_step.md R84, R87) -/

/-- An instruction that completes: `MODE <- Running` (R87). -/
def complete (s : State) : Result := .next { s with mode := .running }

/-- An instruction that completes with `pc <- (pc + 2) mod 4096` (R19). -/
def completeNext (s : State) : Result := complete (s.advance 2)

/-- A skip (R84): +4 when its condition holds, +2 otherwise. -/
def completeSkip (c : Bool) (s : State) : Result := complete (s.advance (if c then 4 else 2))

/-- FX0A with no key pressed: `pc` unchanged, `MODE <- AwaitingKey` (R87, R143). -/
def awaitKey (s : State) : Result := .next { s with mode := .awaitingKey }

/-- The non-fatal report of an INVALID word (R85). -/
def reportInvalid (op : Word) (s : State) : State :=
  { s.advance 2 with invSeen := true, invOpcode := op, invPc := s.pc, mode := .running }

/-! ### Taking a fault, and Reset (spec/60_exceptions.md R153, R154) -/

/-- Fault entry (R153): the four status writes and nothing else; `pc` keeps the faulting instruction's address. -/
def takeFault (code : FaultCode) (op : Word) (s : State) : Result :=
  .next { s with faultCode := code, faultPc := s.pc, faultOpcode := op, mode := .halted }

/-- The Reset event (R39, R180): the only way out of Halted. It leaves `MEM[0x050..0xFFF]`, the host's keypad, the
parameters and the host's inputs and agenda as they are; the record of a Load ends (log 9). -/
def resetEvent (s : State) : State :=
  { State.reset with
    mem := Memory.writeBytes s.mem 0 s.cfg.font.toList
    key := s.key
    cfg := s.cfg
    rnd := s.rnd
    keyPick := s.keyPick
    draws := s.draws
    agenda := s.agenda }

/-! ### The free inputs of a Step (spec/00_scope.md R17) -/

/-- `RND` for this CXNN and the state after the draw: the byte the random source has ready, else a free one (log 4). -/
def drawRnd (s : State) : Byte × State :=
  match s.rnd with
  | b :: rest => (b, { s with rnd := rest })
  | [] => (Config.rndByte s.draws, { s with draws := s.draws + 1 })

/-- A free pick among the pressed keys `k :: ks` (R17, log 5). -/
def freePick (k : Nibble) (ks : List Nibble) (s : State) : Nibble × State :=
  ((k :: ks).getD (Config.keyDraw s.draws % (k :: ks).length) k, { s with draws := s.draws + 1 })

/-- `KEYPICK` for this FX0A and the state after it: the key the host names if it is pressed, else a free pick (log 5). -/
def drawKey (k : Nibble) (ks : List Nibble) (s : State) : Nibble × State :=
  match s.keyPick with
  | p :: rest => if p ∈ k :: ks then (p, { s with keyPick := rest }) else freePick k ks { s with keyPick := rest }
  | [] => freePick k ks s

/-! ### The read ports (spec/10_state.md R36) -/

/-- The 2-bit code of `MODE` (R33). -/
def modeCode : Mode → BitVec 2
  | .running => 0
  | .awaitingKey => 1
  | .halted => 2

/-- The 3-bit `FAULT_CODE` (R150). -/
def faultCodeBits : FaultCode → BitVec 3
  | .none => 0
  | .stackOverflow => 1
  | .stackUnderflow => 2
  | .addressOutOfRange => 3
  | .keyIndexOutOfRange => 4

/-- The result code of a Load (R156). -/
def loadResultCode : LoadResult → Nat
  | .ok => 0
  | .loadFailure => 1
  | .programOutOfRange => 2

/-- `CORESTAT` (R36): `[1:0] MODE`, `[2] INV_SEEN`, `[5:3] FAULT_CODE`, `[7:6]` zero. -/
def corestat (s : State) : Byte :=
  0#2 ++ faultCodeBits s.faultCode ++ BitVec.ofBool s.invSeen ++ modeCode s.mode

/-- What the host reads at a status port (R36); the 8-bit `CORESTAT` is zero-extended. -/
def readStatus (s : State) : StatusPort → Word
  | .corestat => (corestat s).setWidth 16
  | .invOpcode => s.invOpcode
  | .invPc => s.invPc
  | .faultPc => s.faultPc
  | .faultOpcode => s.faultOpcode

end Sys2Proof.Machine
end

