-- ==== Sys2Proof/Machine/Flags.lean ====
section
/-! DEFINITION. Every result and flag of the datapath (spec/42_alu.md R106 to R110, R112, spec/43_index_memory.md R121):
computed on unbounded numbers (R13), then brought to a width. -/

namespace Sys2Proof.Machine

/-- `(a + b) mod 256` (R101, R106). -/
def addByte (a b : Byte) : Byte := BitVec.ofNat 8 ((a.toNat + b.toNat) % 256)

/-- `bool(a + b > 255)`: the carry out of bit 7 (R106). -/
def addCarry (a b : Byte) : Bool := decide (a.toNat + b.toNat > 255)

/-- `(a - b) mod 256` (R107, R109). -/
def subByte (a b : Byte) : Byte := BitVec.ofNat 8 ((a.toNat + 256 - b.toNat) % 256)

/-- `bool(a >= b)`: no borrow (R107, R109). -/
def noBorrow (a b : Byte) : Bool := decide (a.toNat ≥ b.toNat)

/-- `a >> 1` (R108). -/
def shrByte (a : Byte) : Byte := a >>> 1

/-- The bit a right shift moves out (R108). -/
def shrOut (a : Byte) : Bool := a.getLsbD 0

/-- `(a << 1) mod 256` (R110). -/
def shlByte (a : Byte) : Byte := a <<< 1

/-- The bit a left shift moves out: bit 7, mask 0x80 (R110). -/
def shlOut (a : Byte) : Bool := a.getLsbD 7

/-- `bool(i + a > 0xFFF)` (R121). -/
def indexCarry (i : Word) (a : Byte) : Bool := decide (i.toNat + a.toNat > 0xFFF)

end Sys2Proof.Machine
end

