-- ==== Sys2Proof/Machine/Alu.lean ====
section
/-! DEFINITION. Register loads and flag-setting arithmetic (spec/42_alu.md R100 to R111). -/

namespace Sys2Proof.Machine

/-- `V[X] <- b`, no flag (R100 to R105, R111). -/
def writeReg (x : Nibble) (b : Byte) (s : State) : Result := completeNext (s.setV x b)

/-- `V[X] <- b`, then VF last, so that the flag stays in VF when X = 0xF (R82, R106 to R110). -/
def writeRegFlag (x : Nibble) (b : Byte) (c : Bool) (s : State) : Result := completeNext ((s.setV x b).setFlag c)

/-- 6XNN (R100). -/
def execLdImm (x : Nibble) (nn : Byte) (s : State) : Result := writeReg x nn s

/-- 7XNN (R101): VF is not a flag here. -/
def execAddImm (x : Nibble) (nn : Byte) (s : State) : Result := writeReg x (addByte (s.getV x) nn) s

/-- 8XY0 (R102). -/
def execLdReg (x y : Nibble) (s : State) : Result := writeReg x (s.getV y) s

/-- 8XY1 (R103). -/
def execOr (x y : Nibble) (s : State) : Result := writeReg x (s.getV x ||| s.getV y) s

/-- 8XY2 (R104). -/
def execAnd (x y : Nibble) (s : State) : Result := writeReg x (s.getV x &&& s.getV y) s

/-- 8XY3 (R105). -/
def execXor (x y : Nibble) (s : State) : Result := writeReg x (s.getV x ^^^ s.getV y) s

/-- 8XY4 (R106). -/
def execAddReg (x y : Nibble) (s : State) : Result :=
  writeRegFlag x (addByte (s.getV x) (s.getV y)) (addCarry (s.getV x) (s.getV y)) s

/-- 8XY5 (R107). -/
def execSub (x y : Nibble) (s : State) : Result :=
  writeRegFlag x (subByte (s.getV x) (s.getV y)) (noBorrow (s.getV x) (s.getV y)) s

/-- 8XY6 (R108): Y is not read. -/
def execShr (x _y : Nibble) (s : State) : Result := writeRegFlag x (shrByte (s.getV x)) (shrOut (s.getV x)) s

/-- 8XY7 (R109). -/
def execSubn (x y : Nibble) (s : State) : Result :=
  writeRegFlag x (subByte (s.getV y) (s.getV x)) (noBorrow (s.getV y) (s.getV x)) s

/-- 8XYE (R110): Y is not read. -/
def execShl (x _y : Nibble) (s : State) : Result := writeRegFlag x (shlByte (s.getV x)) (shlOut (s.getV x)) s

/-- CXNN (R111): `RND & NN`, `RND` a free input (R17). -/
def execRnd (x : Nibble) (nn : Byte) (s : State) : Result := writeReg x ((drawRnd s).1 &&& nn) (drawRnd s).2

end Sys2Proof.Machine
end

