-- ==== Sys2Proof/Machine/Operands.lean ====
section
/-! DEFINITION. The operand forms beyond a register and an immediate: the register block of FX55 and FX65, the decimal
digits of FX33, the lit pixels of DXYN, the pressed keys of FX0A (spec/43_index_memory.md, 44_display.md,
45_keypad_timer.md). Every one reads the state before the instruction writes anything (spec/40_step.md R82). -/

namespace Sys2Proof.Machine

/-- `k` as a register number. -/
def regOfNat (k : Nat) : Nibble := BitVec.ofNat 4 k

/-- `V[0..X]`, X + 1 values (R124). -/
def blockRegs (s : State) (x : Nibble) : List Byte := (List.range (x.toNat + 1)).map fun k => s.getV (regOfNat k)

/-- `MEM[I .. I + X]`, X + 1 bytes (R125). -/
def blockBytes (s : State) (x : Nibble) : List Byte :=
  (List.range (x.toNat + 1)).map fun k => Memory.read s.mem (s.i.toNat + k)

/-- The registers with bytes written to consecutive ones, the first to register `k` (R125). -/
def setRegs (v : Vector Byte 16) (k : Nat) : List Byte → Vector Byte 16
  | [] => v
  | b :: bs => setRegs (v.set (regOfNat k).toNat b (regOfNat k).isLt) (k + 1) bs

/-- `V[0]`, `V[1]`, ... `<-` the bytes of a list (R125). -/
def State.setBlock (s : State) (bs : List Byte) : State := { s with v := setRegs s.v 0 bs }

/-- The last address `I + k` of a transfer lies past 0xFFF (R123 to R125, R150). -/
def pastTop (s : State) (k : Nat) : Bool := decide (s.i.toNat + k > 0xFFF)

/-- The hundreds, tens and units of a byte (R123). -/
def bcdDigits (a : Byte) : List Byte :=
  [BitVec.ofNat 8 (a.toNat / 100), BitVec.ofNat 8 (a.toNat / 10 % 10), BitVec.ofNat 8 (a.toNat % 10)]

/-- The cells sprite row `r` toggles: column `c` is bit `7 - c` of the byte (R131). -/
def rowCells (b : Byte) (vx vy r : Nat) : List Nat :=
  (List.range 8).filterMap fun c => if b.getLsbD (7 - c) then some (cellIndex (vx + c) (vy + r)) else none

/-- The cells a sprite of `n` rows toggles, in the order of R131's loop; its reads wrap (R48). -/
def spriteCells (s : State) (vx vy n : Nat) : List Nat :=
  (List.range n).flatMap fun r => rowCells (Memory.read s.mem (s.i.toNat + r)) vx vy r

/-- R131's loop over the cells: the framebuffer and whether a set cell was toggled to unset. -/
def drawCells : List Nat → Framebuffer → Bool → Framebuffer × Bool
  | [], fb, coll => (fb, coll)
  | k :: ks, fb, coll => drawCells ks (fb.toggle k) (coll || fb.cell k)

/-- The keys pressed, lowest first: the set `P` of R143. -/
def pressedKeys (s : State) : List Nibble := ((List.range 16).map regOfNat).filter fun k => s.keyDown k

end Sys2Proof.Machine
end

