-- ==== Sys2Proof/Machine/ControlFlow.lean ====
section
/-! DEFINITION. Control transfer and skips (spec/41_control_flow.md R90 to R97). -/

namespace Sys2Proof.Machine

/-- 00EE (R90). -/
def execRet (s : State) : Result :=
  if s.sp.val ≠ 0 then complete (s.drop.setPc s.top.toNat)
  else takeFault .stackUnderflow (encode .ret) s

/-- 1NNN (R91). -/
def execJp (nnn : Addr) (s : State) : Result := complete (s.setPc nnn.toNat)

/-- 2NNN (R92): the pushed address is that of the next instruction (C2). -/
def execCall (nnn : Addr) (s : State) : Result :=
  if h : s.sp.val < 16 then complete ((s.push (wrap12 (s.pc.toNat + 2)) h).setPc nnn.toNat)
  else takeFault .stackOverflow (encode (.call nnn)) s

/-- 3XNN (R93). -/
def execSeImm (x : Nibble) (nn : Byte) (s : State) : Result := completeSkip (s.getV x == nn) s

/-- 4XNN (R94). -/
def execSneImm (x : Nibble) (nn : Byte) (s : State) : Result := completeSkip (s.getV x != nn) s

/-- 5XY0 (R95). -/
def execSeReg (x y : Nibble) (s : State) : Result := completeSkip (s.getV x == s.getV y) s

/-- 9XY0 (R96). -/
def execSneReg (x y : Nibble) (s : State) : Result := completeSkip (s.getV x != s.getV y) s

/-- BNNN (R97): always V0. -/
def execJpV0 (nnn : Addr) (s : State) : Result := complete (s.setPc (nnn.toNat + (s.getV 0).toNat))

end Sys2Proof.Machine
end

