-- ==== Sys2Proof/Machine/Display.lean ====
section
/-! DEFINITION. The framebuffer clear and the sprite draw (spec/44_display.md R130, R131). -/

namespace Sys2Proof.Machine

/-- 00E0 (R130). -/
def execCls (s : State) : Result := completeNext { s with fb := Vector.replicate 32 0#64, redraw := true }

/-- The framebuffer and collision bit of a sprite of `n` rows at `V[X]`, `V[Y]` (R131). -/
def drawSprite (x y : Nibble) (n : Nat) (s : State) : Framebuffer × Bool :=
  drawCells (spriteCells s (s.getV x).toNat (s.getV y).toNat n) s.fb false

/-- DXYN (R131): VF is written on every draw; REDRAW is set when N > 0 (C7). -/
def execDrw (x y n : Nibble) (s : State) : Result :=
  completeNext
    ({ s with
        fb := (drawSprite x y n.toNat s).1
        redraw := s.redraw || decide (n.toNat > 0) }.setFlag (drawSprite x y n.toNat s).2)

end Sys2Proof.Machine
end

