-- ==== Sys2Proof/Machine/IndexMemory.lean ====
section
/-! DEFINITION. The index register and memory transfers (spec/43_index_memory.md R120 to R125). -/

namespace Sys2Proof.Machine

/-- ANNN (R120). -/
def execLdI (nnn : Addr) (s : State) : Result := completeNext (s.setI nnn.toNat)

/-- FX1E (R121): the flag is from the unwrapped sum of the latched operands. -/
def execAddIVx (x : Nibble) (s : State) : Result :=
  completeNext ((s.setI (s.i.toNat + (s.getV x).toNat)).setFlag (indexCarry s.i (s.getV x)))

/-- FX29 (R122): `vx` is not masked. -/
def execLdFVx (x : Nibble) (s : State) : Result := completeNext (s.setI ((s.getV x).toNat * 5))

/-- FX33 (R123). -/
def execLdBVx (x : Nibble) (s : State) : Result :=
  if pastTop s 2 then takeFault .addressOutOfRange (encode (.ldBVx x)) s
  else completeNext { s with mem := Memory.writeBytes s.mem s.i.toNat (bcdDigits (s.getV x)) }

/-- FX55 (R124). -/
def execLdMemVx (x : Nibble) (s : State) : Result :=
  if pastTop s x.toNat then takeFault .addressOutOfRange (encode (.ldMemVx x)) s
  else completeNext { s with mem := Memory.writeBytes s.mem s.i.toNat (blockRegs s x) }

/-- FX65 (R125). -/
def execLdVxMem (x : Nibble) (s : State) : Result :=
  if pastTop s x.toNat then takeFault .addressOutOfRange (encode (.ldVxMem x)) s
  else completeNext (s.setBlock (blockBytes s x))

end Sys2Proof.Machine
end

