-- ==== Sys2Proof/Machine/KeypadTimer.lean ====
section
/-! DEFINITION. Keypad and timer instructions (spec/45_keypad_timer.md R140 to R145), and the timer countdown with its
beep logic (spec/60_exceptions.md R160 to R162, spec/40_step.md R86). -/

namespace Sys2Proof.Machine

/-! ### Instructions -/

/-- `vx > 0xF`: no keypad entry (R140, R141). -/
def noSuchKey (vx : Byte) : Bool := decide (vx.toNat > 0xF)

/-- `KEY[vx]` for a `vx` of 0x0 to 0xF (R140, R141). -/
def State.keyAt (s : State) (vx : Byte) : Bool := s.keyDown (vx.setWidth 4)

/-- EX9E (R140). -/
def execSkp (x : Nibble) (s : State) : Result :=
  if noSuchKey (s.getV x) then takeFault .keyIndexOutOfRange (encode (.skp x)) s
  else completeSkip (s.keyAt (s.getV x)) s

/-- EXA1 (R141). -/
def execSknp (x : Nibble) (s : State) : Result :=
  if noSuchKey (s.getV x) then takeFault .keyIndexOutOfRange (encode (.sknp x)) s
  else completeSkip (!s.keyAt (s.getV x)) s

/-- FX07 (R142). -/
def execLdVxDt (x : Nibble) (s : State) : Result := completeNext (s.setV x s.dt)

/-- The key FX0A takes when `k :: ks` are pressed, lowest first, under `KEY_SELECT` (R143). -/
def selectKey (k : Nibble) (ks : List Nibble) (s : State) : Nibble × State :=
  match s.cfg.keySelect with
  | .lowest => (k, s)
  | .any => drawKey k ks s

/-- FX0A (R143): waits while no key is pressed. -/
def execLdVxK (x : Nibble) (s : State) : Result :=
  match pressedKeys s with
  | [] => awaitKey s
  | k :: ks => completeNext ((selectKey k ks s).2.setV x ((selectKey k ks s).1.setWidth 8))

/-- FX15 (R144). -/
def execLdDtVx (x : Nibble) (s : State) : Result := completeNext { s with dt := s.getV x }

/-- FX18 (R145): `BEEP` is not set here. -/
def execLdStVx (x : Nibble) (s : State) : Result := completeNext { s with st := s.getV x }

/-! ### The countdown -/

/-- Whether the beep logic sets `BEEP` when it looks at `ST` (R162). -/
def beepDue (p : BeepPolicy) (st : Byte) : Bool :=
  match p with
  | .whileNonzero => decide (st ≠ 0#8)
  | .onExpiry => decide (st = 1#8)

/-- One less, pinned at 0 (R161). -/
def countDown (t : Byte) : Byte := if t = 0#8 then 0#8 else t - 1#8

/-- `TimerDecrement()` (R161): the beep logic looks at `ST` before the decrement; it never clears `BEEP`. -/
def timerDecrement (s : State) : State :=
  { s with dt := countDown s.dt, st := countDown s.st, beep := s.beep || beepDue s.cfg.beepPolicy s.st }

/-- The Tick event (R160): a decrement under `Decoupled` in every mode, nothing under `PerStep`. -/
def tickEvent (s : State) : State :=
  match s.cfg.timerMode with
  | .decoupled => timerDecrement s
  | .perStep => s

/-- The end of a completed Step (R86): a decrement under `PerStep`, nothing under `Decoupled`. -/
def timerPhase (s : State) : State :=
  match s.cfg.timerMode with
  | .decoupled => s
  | .perStep => timerDecrement s

end Sys2Proof.Machine
end

