-- ==== Sys2Proof/Machine/HostEvents.lean ====
section
/-! DEFINITION. The host's events other than Step (spec/00_scope.md R18, spec/70_reset_and_hazards.md R182 to R187,
spec/60_exceptions.md R164, R165). Reset is in Machine/Ops.lean, Tick in Machine/KeypadTimer.lean. -/

namespace Sys2Proof.Machine

/-- `PROGRAM_BASE` (R10). -/
def programBase : Nat := 0x200

/-- What Load answers the host (R156, R182 to R184). -/
def loadOutcome : LoadRequest → LoadResult
  | .unreadable => .loadFailure
  | .bytes p => if programWellFormed p then .ok else .programOutOfRange

/-- The Load event: the program verbatim from 0x200 when it fits, no byte otherwise (R182 to R184). -/
def loadEvent (req : LoadRequest) (s : State) : State :=
  match req with
  | .unreadable => { s with loadResult := some .loadFailure }
  | .bytes p =>
    if programWellFormed p then
      { s with mem := Memory.writeBytes s.mem programBase p, loadResult := some .ok }
    else { s with loadResult := some .programOutOfRange }

/-- `HostKey(k, b)`: `KEY[k] <- b` (R164). -/
def hostKeyEvent (k : Nibble) (b : Bool) (s : State) : State := { s with key := s.key.set k.toNat b k.isLt }

/-- `HostClearRedraw` (R165, R187). -/
def clearRedrawEvent (s : State) : State := { s with redraw := false }

/-- `HostClearBeep` (R165, R187). -/
def clearBeepEvent (s : State) : State := { s with beep := false }

/-- The random source has one more byte ready (R17, R166). -/
def presentRndEvent (b : Byte) (s : State) : State := { s with rnd := s.rnd ++ [b] }

/-- The host names one more key for FX0A under `KEY_SELECT = Any` (R17). -/
def presentKeyPickEvent (k : Nibble) (s : State) : State := { s with keyPick := s.keyPick ++ [k] }

/-- A host write to a status word has no effect (R36). -/
def writeStatusEvent (_port : StatusPort) (_value : Word) (s : State) : State := s

/-- The last Load failed, so that the host must not issue Step (R183, R184). -/
def loadFailed (s : State) : Bool := s.loadResult == some .loadFailure || s.loadResult == some .programOutOfRange

end Sys2Proof.Machine
end

