-- ==== Sys2Proof/Machine/Cycle.lean ====
section
/-! DEFINITION. The Step event (spec/40_step.md R80): fetch, decode, execute, the report of an INVALID word, the per-step
timer phase, and the dispatch of the host's events (spec/00_scope.md R18). -/

namespace Sys2Proof.Machine

/-- Fetch (R81): the two bytes at `pc` and `pc + 1`, both modulo 4096. -/
def fetch (s : State) : Word := Memory.readWord s.mem s.pc.toNat

/-- The end of a Step whose instruction was executed (R80, R86): a fault ends it at once, a completed instruction has its
timer phase. -/
def afterExec : Result → Result
  | .next t => if t.mode = .halted then .next t else .next (timerPhase t)
  | .fault r => .fault r
  | .refused r => .refused r

/-- Fetch, decode and execute (R80). -/
def runCycle (s : State) : Result :=
  match decode (fetch s) with
  | .ok i => afterExec (exec i s)
  | .error _ => .next (timerPhase (reportInvalid (fetch s) s))

/-- The Step event (R80): nothing in Halted (R88), and no cycle after a failed Load (R183, R184, log 9). -/
def stepEvent (s : State) : Result :=
  if s.mode = .halted then .next s
  else if loadFailed s then .fault .stepAfterFailedLoad
  else runCycle s

/-- One event (R18). -/
def applyEvent (e : Event) (s : State) : Result :=
  match e with
  | .reset => .next (resetEvent s)
  | .load req => .next (loadEvent req s)
  | .step => stepEvent s
  | .tick => .next (tickEvent s)
  | .hostKey k b => .next (hostKeyEvent k b s)
  | .hostClearRedraw => .next (clearRedrawEvent s)
  | .hostClearBeep => .next (clearBeepEvent s)
  | .presentRnd b => .next (presentRndEvent b s)
  | .presentKeyPick k => .next (presentKeyPickEvent k s)
  | .writeStatus port value => .next (writeStatusEvent port value s)

/-- The next event (log 7): the first of the host's agenda, or a Step when the agenda is empty. -/
def nextEvent (s : State) : Result :=
  match s.agenda with
  | [] => stepEvent s
  | e :: rest => applyEvent e { s with agenda := rest }

/-- A word stored where the next fetch reads it, high byte first (R44), with no host event before the next Step, no failed
Load on record and the engine not Halted (log 11). -/
def placeWord (op : Word) (s : State) : State :=
  { s with
    mem := Memory.writeBytes s.mem s.pc.toNat (bytesOfWord op)
    mode := if s.mode = .halted then .running else s.mode
    loadResult := if loadFailed s then some .ok else s.loadResult
    agenda := [] }

end Sys2Proof.Machine
end

