-- ==== Sys2Proof/Safety.lean ====
section
/-! DEFINITION. What the statements speak of: runs of events, the host's side of the contract (spec/70_reset_and_hazards.md
R185, R186), the end states of a run (R193), the invariants of the state, and the footprint of a store. -/

namespace Sys2Proof.Machine

/-! ### Runs -/

/-- The events of a list, one after another, up to the first stop (R18). -/
def runEvents : List Event → State → Result
  | [], s => .next s
  | e :: es, s =>
    match applyEvent e s with
    | .next t => runEvents es t
    | .fault r => .fault r
    | .refused r => .refused r

/-- `n` decrements of the timers (R161). -/
def decrementTimes : Nat → State → State
  | 0, s => s
  | n + 1, s => decrementTimes n (timerDecrement s)

/-! ### The host's contract (R185, R186) -/

/-- How far the boot order has come. -/
inductive HostPhase where
  /-- Power-on, no Reset yet (R181). -/
  | powerOn
  /-- After Reset, before a Load. -/
  | ready
  /-- After a Load that answered Ok. -/
  | loaded
  /-- After a Load that failed: no Step until a Reset and a successful Load (R183, R184). -/
  | failed
  deriving DecidableEq, Repr

/-- The phase after an event the host may issue in a phase (R185, R186), `none` for one it may not.
DESIGN CHOICE (log 21): a `writeStatus` is permitted in every phase. R36 gives a host write to a status word no effect, while
R186's table has no such action and says the host never writes the status fields.
DESIGN CHOICE (log 22): a `tick` is permitted from the first Reset on, also before a Load and after a failed one, and not
in `powerOn`; `hostKey`, the two clears and the Step's inputs `presentRnd` and `presentKeyPick` are permitted in every phase,
`powerOn` included. R185 names Tick and host events after the Load alone, and R186's table gives Tick no phase and
`HostKey` any time.
DESIGN CHOICE (log 23): the check does not read the state. A `tick` is permitted whatever `TIMER_MODE` is, although R186's
table allows it only under `Decoupled`: R160 gives one under `PerStep` no effect. A clear is permitted whether or not its flag is
set, and a `presentKeyPick` whether or not the key is pressed. -/
def HostPhase.after (p : HostPhase) (e : Event) : Option HostPhase :=
  match e with
  | .reset => some .ready
  | .load req =>
    match p with
    | .ready => if loadOutcome req = .ok then some .loaded else some .failed
    | _ => none
  | .step => if p = .loaded then some .loaded else none
  | .tick => if p = .powerOn then none else some p
  | .hostKey _ _ | .hostClearRedraw | .hostClearBeep => some p
  | .presentRnd _ | .presentKeyPick _ => some p
  | .writeStatus _ _ => some p

/-- The host keeps R185's boot order and R186's table from a phase on. -/
def HostPhase.keeps : HostPhase → List Event → Bool
  | _, [] => true
  | p, e :: es =>
    match p.after e with
    | some q => q.keeps es
    | none => false

/-! ### The end of a run (R193) -/

/-- Parked: the instruction at `pc` is a jump to itself. -/
def State.Parked (s : State) : Prop := s.mode ≠ .halted ∧ fetch s = 0x1000#16 ||| s.pc

/-- Faulted. -/
def State.Faulted (s : State) : Prop := s.mode = .halted

/-- A run that ends well: Parked with `FAULT_CODE == 0`. -/
def State.EndsWell (s : State) : Prop := s.Parked ∧ s.faultCode = .none

/-! ### Invariants -/

/-- What every event keeps: the fields R23 to R25, R34 and R35 keep below 4096, the canonical form of memory, and that
the mode and the status fields tell one story (R34, R35, R153, R155). -/
structure State.Inv (s : State) : Prop where
  pcLow       : s.pc.toNat < 4096
  iLow        : s.i.toNat < 4096
  stackLow    : ∀ (k : Nat) (h : k < 16), s.stack[k].toNat < 4096
  invPcLow    : s.invPc.toNat < 4096
  faultPcLow  : s.faultPc.toNat < 4096
  memWf       : Memory.wf s.mem = true
  haltedFault : s.mode = .halted ↔ s.faultCode ≠ .none
  haltedPc    : s.mode = .halted → s.pc = s.faultPc
  faultClear  : s.faultCode = .none → s.faultPc = 0#16 ∧ s.faultOpcode = 0#16
  invClear    : s.invSeen = false → s.invOpcode = 0#16 ∧ s.invPc = 0#16
  invInvalid  : s.invSeen = true → isInvalid s.invOpcode = true

/-- The condition of R150 that a fault code records still stands in the operands, which the fault left as they were
(R151, R153). -/
def State.FaultStands (s : State) : Prop :=
  match s.faultCode with
  | .none => True
  | .stackOverflow => s.sp.val = 16 ∧ ∃ a, s.faultOpcode = encode (.call a)
  | .stackUnderflow => s.sp.val = 0 ∧ s.faultOpcode = encode .ret
  | .addressOutOfRange =>
    ∃ x, (s.faultOpcode = encode (.ldBVx x) ∧ s.i.toNat + 2 > 0xFFF) ∨
      ((s.faultOpcode = encode (.ldMemVx x) ∨ s.faultOpcode = encode (.ldVxMem x)) ∧ s.i.toNat + x.toNat > 0xFFF)
  | .keyIndexOutOfRange =>
    ∃ x, (s.faultOpcode = encode (.skp x) ∨ s.faultOpcode = encode (.sknp x)) ∧ (s.getV x).toNat > 0xF

/-! ### Words of the statements -/

/-- `(pc + k) mod 4096` (R19, R84). -/
def pcPlus (s : State) (k : Nat) : Word := BitVec.ofNat 16 ((s.pc.toNat + k) % 4096)

/-- The next event is a Step that runs a cycle: no host event is due, the engine is not Halted, and no failed Load is on
record. -/
def State.ReadyToStep (s : State) : Prop :=
  s.agenda = [] ∧ s.mode ≠ .halted ∧ (s.loadResult = none ∨ s.loadResult = some .ok)

/-- A lit bit of a sprite of `n` rows at `V[X]`, `V[Y]` lands on the cell `k` (R131). -/
def litCell (s : State) (x y n : Nibble) (k : Nat) : Prop :=
  ∃ r c, r < n.toNat ∧ c < 8 ∧ (Memory.read s.mem (s.i.toNat + r)).getLsbD (7 - c) = true ∧
    k = (((s.getV y).toNat + r) % 32) * 64 + ((s.getV x).toNat + c) % 64

/-- The registers an instruction may write (R21's table), VF as a flag among them. -/
def destRegs (i : Instr) : List Nibble :=
  match i with
  | .ldImm x _ | .addImm x _ | .ldReg x _ | .orReg x _ | .andReg x _ | .xorReg x _ | .rnd x _ | .ldVxDt x
  | .ldVxK x => [x]
  | .addReg x _ | .sub x _ | .shr x _ | .subn x _ | .shl x _ => [x, 15#4]
  | .addIVx _ | .drw _ _ _ => [15#4]
  | .ldVxMem x => (List.range (x.toNat + 1)).map (BitVec.ofNat 4)
  | _ => []

/-! ### Footprints -/

/-- How many bytes from `I` on an instruction stores (R48). -/
def storeBytes : Instr → Nat
  | .ldBVx _ => 3
  | .ldMemVx x => x.toNat + 1
  | _ => 0

/-- The fault R150 gives an instruction in a state, `none` where it gives none. -/
def faultOf (i : Instr) (s : State) : FaultCode :=
  match i with
  | .call _ => if s.sp.val = 16 then .stackOverflow else .none
  | .ret => if s.sp.val = 0 then .stackUnderflow else .none
  | .ldBVx _ => if s.i.toNat + 2 > 0xFFF then .addressOutOfRange else .none
  | .ldMemVx x | .ldVxMem x => if s.i.toNat + x.toNat > 0xFFF then .addressOutOfRange else .none
  | .skp x | .sknp x => if (s.getV x).toNat > 0xF then .keyIndexOutOfRange else .none
  | _ => .none

end Sys2Proof.Machine
end

