-- ==== Sys2Proof/Certificates/Slice0/Obligations.lean ====
section
/-! DEFINITION. The statements for the provers, from the numbered rules of spec/: reset, the invariants, encoding,
memory, the step and its faults, every instruction, the timers, and the host's events. -/

open Sys2Proof Sys2Proof.Machine

/-! ### Reset and the invariants -/

/-- R39 and R180: the value of every component after the Reset event, from any state. -/
def Obligations.ResetEventGivesResetValues : Prop :=
  ∀ s : State, ∃ t, applyEvent .reset s = .next t ∧
    (∀ r, t.getV r = 0#8) ∧ t.i = 0#16 ∧ t.pc = 0x200#16 ∧ t.sp.val = 0 ∧
    (∀ (k : Nat) (h : k < 16), t.stack[k] = 0#16) ∧ t.dt = 0#8 ∧ t.st = 0#8 ∧
    (∀ k < 2048, t.fb.cell k = false) ∧ t.redraw = false ∧ t.beep = false ∧ t.mode = .running ∧
    t.invSeen = false ∧ t.invOpcode = 0#16 ∧ t.invPc = 0#16 ∧
    t.faultCode = .none ∧ t.faultPc = 0#16 ∧ t.faultOpcode = 0#16 ∧
    (∀ (a : Nat) (h : a < 80), Memory.read t.mem a = s.cfg.font[a]) ∧
    (∀ a, 80 ≤ a → a < 4096 → Memory.read t.mem a = Memory.read s.mem a) ∧
    t.key = s.key ∧ t.cfg = s.cfg

/-- The reset state of the model: every component at R39's value, the default FONT (log 2) and, above it, the free value
MEM_INIT (log 1). -/
def Obligations.PowerOnResetState : Prop :=
  (∀ r, State.reset.getV r = 0#8) ∧ State.reset.i = 0#16 ∧ State.reset.pc = 0x200#16 ∧ State.reset.sp.val = 0 ∧
    (∀ (k : Nat) (h : k < 16), State.reset.stack[k] = 0#16) ∧ State.reset.dt = 0#8 ∧ State.reset.st = 0#8 ∧
    (∀ k < 2048, State.reset.fb.cell k = false) ∧ State.reset.redraw = false ∧ State.reset.beep = false ∧
    State.reset.mode = .running ∧ State.reset.invSeen = false ∧ State.reset.invOpcode = 0#16 ∧
    State.reset.invPc = 0#16 ∧ State.reset.faultCode = .none ∧ State.reset.faultPc = 0#16 ∧
    State.reset.faultOpcode = 0#16 ∧
    (∀ (a : Nat) (h : a < 80), Memory.read State.reset.mem a = Config.defaultFont[a]) ∧
    (∀ a, 80 ≤ a → a < 4096 → Memory.read State.reset.mem a = Config.memInit a)

/-- The invariant holds at reset. -/
def Obligations.ResetMeetsInvariant : Prop := State.reset.Inv ∧ State.reset.FaultStands

/-- The invariant: every step, whatever event it is, keeps it. -/
def Obligations.EveryStepKeepsInvariant : Prop :=
  ∀ s t : State, s.Inv → step s = .next t → t.Inv

/-- R151: the operands of a fault are unchanged by it, so that its condition still stands until Reset. -/
def Obligations.FaultConditionStandsUntilReset : Prop :=
  ∀ s t : State, s.Inv → s.FaultStands → step s = .next t → t.FaultStands

/-! ### Encoding -/

/-- Decode and encode agree on every instruction, with every operand at every value (R62, R65). -/
def Obligations.DecodeOfEncode : Prop := ∀ i : Instr, decode (encode i) = .ok i

/-- No bit of a word is lost: a word that decodes is the encoding of what it decodes to. -/
def Obligations.EncodeOfDecode : Prop := ∀ (w : Word) (i : Instr), decode w = .ok i → encode i = w

/-- R66: a word is an instruction when every constant digit of its row matches, and then of no other row; a word that
differs from every row in a constant digit is INVALID. -/
def Obligations.DecodeFollowsOpcodeTable : Prop :=
  (∀ (w : Word) (i : Instr), decode w = .ok i →
    ∃ r ∈ opcodeRows, r.mnemonic = mnemonic i ∧ rowMatches r w = true ∧
      ∀ r' ∈ opcodeRows, rowMatches r' w = true → r' = r) ∧
  (∀ w : Word, isInvalid w = true ↔ ∀ r ∈ opcodeRows, rowMatches r w = false) ∧
  isInvalid 0x01E0 = true ∧ isInvalid 0x5121 = true ∧ isInvalid 0x9AB3 = true ∧
  isInvalid 0x8AB8 = true ∧ isInvalid 0xE19F = true ∧ isInvalid 0xF1FF = true

/-- R68's table: which words are in which class of INVALID words, on the digits of the word. -/
def Obligations.InvalidClassesOfWords : Prop :=
  ∀ w : Word,
    (decode w = .error .zero ↔ w.toNat / 4096 = 0 ∧ w.toNat ≠ 0x00E0 ∧ w.toNat ≠ 0x00EE) ∧
    (decode w = .error .five ↔ w.toNat / 4096 = 5 ∧ w.toNat % 16 ≠ 0) ∧
    (decode w = .error .eight ↔ w.toNat / 4096 = 8 ∧ w.toNat % 16 ∈ [8, 9, 0xA, 0xB, 0xC, 0xD, 0xF]) ∧
    (decode w = .error .nine ↔ w.toNat / 4096 = 9 ∧ w.toNat % 16 ≠ 0) ∧
    (decode w = .error .e ↔ w.toNat / 4096 = 0xE ∧ w.toNat % 256 ∉ [0x9E, 0xA1]) ∧
    (decode w = .error .f ↔ w.toNat / 4096 = 0xF ∧
      w.toNat % 256 ∉ [0x07, 0x0A, 0x15, 0x18, 0x1E, 0x29, 0x33, 0x55, 0x65])

/-- A few words written out from R62's formats decode to the instructions they stand for. -/
def Obligations.KnownWordsDecode : Prop :=
  decode 0b0000000011100000#16 = .ok .cls ∧ decode 0b0010101010111100#16 = .ok (.call 0xABC) ∧
  decode 0b1000010100110110#16 = .ok (.shr 5 3) ∧ decode 0b1100001100001111#16 = .ok (.rnd 3 0x0F) ∧
  decode 0b1111101000110011#16 = .ok (.ldBVx 0xA) ∧ decode 0b1101000000010101#16 = .ok (.drw 0 1 5) ∧
  decode 0b1110010110100001#16 = .ok (.sknp 5)

/-- R44 and R60: an instruction laid out as two bytes, high byte first, is read back with the bytes after it. -/
def Obligations.BytesDecodeBigEndian : Prop :=
  ∀ (i : Instr) (rest : List Byte),
    decodeBytes (BitVec.ofNat 8 ((encode i).toNat / 256) :: BitVec.ofNat 8 ((encode i).toNat % 256) :: rest)
      = .ok (i, rest)

/-! ### Memory -/

/-- R15 and R49: the primitives wrap, a read gives the byte last written, and a write changes no other byte. -/
def Obligations.MemoryPrimitives : Prop :=
  ∀ (m : Memory) (a a' : Nat) (b : Byte),
    Memory.read m a = Memory.read m (a % 4096) ∧
    Memory.readWord m a = Memory.read m a ++ Memory.read m (a + 1) ∧
    Memory.read (Memory.write m a b) a = b ∧
    (a % 4096 ≠ a' % 4096 → Memory.read (Memory.write m a b) a' = Memory.read m a')

/-- R81 and R47: fetch is the two bytes at pc and (pc + 1) mod 4096, big-endian, and a Step never stops for it,
whatever pc is. -/
def Obligations.FetchBigEndianNeverFaults : Prop :=
  ∀ s : State,
    fetch s = Memory.read s.mem s.pc.toNat ++ Memory.read s.mem ((s.pc.toNat + 1) % 4096) ∧
    (s.ReadyToStep → ∃ t, step s = .next t) ∧
    (s.pc = 0xFFF#16 → fetch s = Memory.read s.mem 0xFFF ++ Memory.read s.mem 0x000)

/-- R55 and R191: after FX55 a fetch at any two neighbouring stored bytes reads the registers stored there. -/
def Obligations.StoredBytesAreFetched : Prop :=
  ∀ (s t : State) (x : Nibble) (k : Nat), s.i.toNat + x.toNat ≤ 0xFFF → k < x.toNat →
    exec (.ldMemVx x) s = .next t →
      fetch { t with pc := BitVec.ofNat 16 (s.i.toNat + k) }
        = s.getV (BitVec.ofNat 4 k) ++ s.getV (BitVec.ofNat 4 (k + 1))

/-! ### The step, faults and modes -/

/-- R80: a step whose fetched word decodes to an instruction is exec of it, then, unless it faulted into Halted, the
per-step timer phase, which is R86's: nothing under Decoupled, one decrement under PerStep. -/
def Obligations.StepRunsDecodedInstruction : Prop :=
  (∀ (s : State) (i : Instr), s.ReadyToStep → decode (fetch s) = .ok i →
    step s =
      match exec i s with
      | .next t => if t.mode = .halted then .next t else .next (timerPhase t)
      | .fault r => .fault r
      | .refused r => .refused r) ∧
  ∀ t : State,
    (t.cfg.timerMode = .decoupled → timerPhase t = t) ∧
    (t.cfg.timerMode = .perStep → timerPhase t = timerDecrement t)

/-- R85: an INVALID word is reported and passed over, and INV_SEEN is sticky under every event but Reset. -/
def Obligations.InvalidWordReported : Prop :=
  (∀ s : State, s.ReadyToStep → isInvalid (fetch s) = true → s.cfg.timerMode = .decoupled →
    step s = .next { s with invSeen := true, invOpcode := fetch s, invPc := s.pc, pc := pcPlus s 2, mode := .running }) ∧
  (∀ (e : Event) (s t : State), e ≠ .reset → applyEvent e s = .next t → s.invSeen = true → t.invSeen = true)

/-- R88 and R154: a Step in Halted changes nothing, and no event but Reset leaves Halted. -/
def Obligations.HaltedUntilReset : Prop :=
  (∀ s : State, s.mode = .halted → applyEvent .step s = .next s) ∧
  (∀ (e : Event) (s t : State), e ≠ .reset → applyEvent e s = .next t → s.mode = .halted → t.mode = .halted) ∧
  (∀ s : State, ∃ t, applyEvent .reset s = .next t ∧ t.mode = .running ∧ t.faultCode = .none)

/-- R150: the fault table, condition by condition, and the codes. -/
def Obligations.FaultTable : Prop :=
  (∀ (s : State) (a : Addr), s.sp.val = 16 →
    ∃ t, exec (.call a) s = .next t ∧ t.faultCode = .stackOverflow ∧ t.mode = .halted) ∧
  (∀ s : State, s.sp.val = 0 → ∃ t, exec .ret s = .next t ∧ t.faultCode = .stackUnderflow ∧ t.mode = .halted) ∧
  (∀ (s : State) (x : Nibble), s.i.toNat + 2 > 0xFFF →
    ∃ t, exec (.ldBVx x) s = .next t ∧ t.faultCode = .addressOutOfRange ∧ t.mode = .halted) ∧
  (∀ (s : State) (x : Nibble), s.i.toNat + x.toNat > 0xFFF →
    (∃ t, exec (.ldMemVx x) s = .next t ∧ t.faultCode = .addressOutOfRange ∧ t.mode = .halted) ∧
    (∃ t, exec (.ldVxMem x) s = .next t ∧ t.faultCode = .addressOutOfRange ∧ t.mode = .halted)) ∧
  (∀ (s : State) (x : Nibble), (s.getV x).toNat > 0xF →
    (∃ t, exec (.skp x) s = .next t ∧ t.faultCode = .keyIndexOutOfRange ∧ t.mode = .halted) ∧
    (∃ t, exec (.sknp x) s = .next t ∧ t.faultCode = .keyIndexOutOfRange ∧ t.mode = .halted)) ∧
  (∀ (i : Instr) (s t : State), exec i s = .next t → faultOf i s = .none →
    t.mode ≠ .halted ∧ t.faultCode = s.faultCode) ∧
  (∀ (op : Word) (s : State), (reportInvalid op s).faultCode = s.faultCode ∧ (reportInvalid op s).invSeen = true) ∧
  faultCodeBits .none = 0 ∧ faultCodeBits .stackOverflow = 1 ∧ faultCodeBits .stackUnderflow = 2 ∧
  faultCodeBits .addressOutOfRange = 3 ∧ faultCodeBits .keyIndexOutOfRange = 4 ∧
  ∀ c, (faultCodeBits c).toNat < 5

/-- R151, R153 and R83: the Step of a faulting instruction writes the four status components and nothing else, and no
timer phase follows. -/
def Obligations.FaultEntryIsPrecise : Prop :=
  (∀ (i : Instr) (s : State), faultOf i s ≠ .none →
    exec i s = .next { s with faultCode := faultOf i s, faultPc := s.pc, faultOpcode := encode i, mode := .halted }) ∧
  (∀ (i : Instr) (s : State), s.ReadyToStep → decode (fetch s) = .ok i → faultOf i s ≠ .none →
    step s = .next { s with faultCode := faultOf i s, faultPc := s.pc, faultOpcode := fetch s, mode := .halted })

/-- R152: executing an instruction always ends in a next state, completed or at a fault entry. -/
def Obligations.EveryInstructionAnswers : Prop := ∀ (i : Instr) (s : State), ∃ t, exec i s = .next t

/-- R33: Running and AwaitingKey give every instruction the same meaning. -/
def Obligations.AwaitingKeyChangesNoMeaning : Prop :=
  ∀ (i : Instr) (s : State), exec i { s with mode := .awaitingKey } = exec i { s with mode := .running }

/-! ### Control transfer (R90 to R97) -/

/-- R90, 00EE. -/
def Obligations.ReturnPopsAddress : Prop :=
  decode 0x00EE#16 = .ok .ret ∧
  (∀ (s : State) (k : Nat) (h : k < 16), s.sp.val = k + 1 →
    ∃ t, exec .ret s = .next t ∧ t.sp.val = k ∧
      t = { s with sp := t.sp, pc := BitVec.ofNat 16 (s.stack[k].toNat % 4096), mode := .running }) ∧
  (∀ s : State, s.sp.val = 0 →
    exec .ret s = .next
      { s with faultCode := .stackUnderflow, faultPc := s.pc, faultOpcode := 0x00EE#16, mode := .halted })

/-- R91, 1NNN. -/
def Obligations.JumpGoesToAddress : Prop :=
  ∀ nnn : Addr, decode (0x1#4 ++ nnn) = .ok (.jp nnn) ∧
    ∀ s : State, exec (.jp nnn) s = .next { s with pc := nnn.setWidth 16, mode := .running }

/-- R92, 2NNN. -/
def Obligations.CallPushesReturnAddress : Prop :=
  ∀ nnn : Addr, decode (0x2#4 ++ nnn) = .ok (.call nnn) ∧
    (∀ (s : State) (k : Nat) (h : k < 16), s.sp.val = k →
      ∃ t, exec (.call nnn) s = .next t ∧ t.sp.val = k + 1 ∧
        t = { s with stack := s.stack.set k (pcPlus s 2) h, sp := t.sp, pc := nnn.setWidth 16, mode := .running }) ∧
    (∀ s : State, s.sp.val = 16 →
      exec (.call nnn) s = .next
        { s with faultCode := .stackOverflow, faultPc := s.pc, faultOpcode := 0x2#4 ++ nnn, mode := .halted })

/-- C2 and the source's §8 property: a return after a call comes back to the address after the call. -/
def Obligations.CallThenReturn : Prop :=
  ∀ (s : State) (nnn : Addr) (p : Word), s.sp.val < 16 →
    ∃ t u, exec (.call nnn) s = .next t ∧ exec .ret { t with pc := p } = .next u ∧
      u.pc = pcPlus s 2 ∧ u.sp = s.sp

/-- R93 and R94, 3XNN and 4XNN. -/
def Obligations.SkipsOnImmediate : Prop :=
  ∀ (x : Nibble) (nn : Byte), decode (0x3#4 ++ x ++ nn) = .ok (.seImm x nn) ∧
    decode (0x4#4 ++ x ++ nn) = .ok (.sneImm x nn) ∧
    ∀ s : State,
      exec (.seImm x nn) s
        = .next { s with pc := if s.getV x = nn then pcPlus s 4 else pcPlus s 2, mode := .running } ∧
      exec (.sneImm x nn) s
        = .next { s with pc := if s.getV x ≠ nn then pcPlus s 4 else pcPlus s 2, mode := .running }

/-- R95 and R96, 5XY0 and 9XY0. -/
def Obligations.SkipsOnRegisters : Prop :=
  ∀ x y : Nibble, decode (0x5#4 ++ x ++ y ++ 0x0#4) = .ok (.seReg x y) ∧
    decode (0x9#4 ++ x ++ y ++ 0x0#4) = .ok (.sneReg x y) ∧
    (∀ n : Nibble, n ≠ 0#4 → isInvalid (0x5#4 ++ x ++ y ++ n) = true ∧ isInvalid (0x9#4 ++ x ++ y ++ n) = true) ∧
    ∀ s : State,
      exec (.seReg x y) s
        = .next { s with pc := if s.getV x = s.getV y then pcPlus s 4 else pcPlus s 2, mode := .running } ∧
      exec (.sneReg x y) s
        = .next { s with pc := if s.getV x ≠ s.getV y then pcPlus s 4 else pcPlus s 2, mode := .running }

/-- R97, BNNN. -/
def Obligations.JumpWithOffset : Prop :=
  ∀ nnn : Addr, decode (0xB#4 ++ nnn) = .ok (.jpV0 nnn) ∧
    ∀ s : State, exec (.jpV0 nnn) s
      = .next { s with pc := BitVec.ofNat 16 ((nnn.toNat + (s.getV 0#4).toNat) % 4096), mode := .running }

/-! ### Register loads and arithmetic (R100 to R111). In each, `t` differs from `s` in registers, pc and mode only. -/

/-- R100 and R101, 6XNN and 7XNN. -/
def Obligations.LoadAndAddImmediate : Prop :=
  ∀ (x : Nibble) (nn : Byte), decode (0x6#4 ++ x ++ nn) = .ok (.ldImm x nn) ∧
    decode (0x7#4 ++ x ++ nn) = .ok (.addImm x nn) ∧
    ∀ s : State,
      (∃ t, exec (.ldImm x nn) s = .next t ∧ t = { s with v := t.v, pc := pcPlus s 2, mode := .running } ∧
        ∀ r, t.getV r = if r = x then nn else s.getV r) ∧
      (∃ t, exec (.addImm x nn) s = .next t ∧ t = { s with v := t.v, pc := pcPlus s 2, mode := .running } ∧
        ∀ r, t.getV r = if r = x then BitVec.ofNat 8 (((s.getV x).toNat + nn.toNat) % 256) else s.getV r)

/-- R102, 8XY0. -/
def Obligations.RegisterMove : Prop :=
  ∀ x y : Nibble, decode (0x8#4 ++ x ++ y ++ 0x0#4) = .ok (.ldReg x y) ∧
    ∀ s : State, ∃ t, exec (.ldReg x y) s = .next t ∧
      t = { s with v := t.v, pc := pcPlus s 2, mode := .running } ∧
      ∀ r, t.getV r = if r = x then s.getV y else s.getV r

/-- R103, R104 and R105, 8XY1, 8XY2 and 8XY3; VF is not reset. -/
def Obligations.BitwiseOperations : Prop :=
  ∀ x y : Nibble, decode (0x8#4 ++ x ++ y ++ 0x1#4) = .ok (.orReg x y) ∧
    decode (0x8#4 ++ x ++ y ++ 0x2#4) = .ok (.andReg x y) ∧ decode (0x8#4 ++ x ++ y ++ 0x3#4) = .ok (.xorReg x y) ∧
    ∀ s : State,
      (∃ t, exec (.orReg x y) s = .next t ∧ t = { s with v := t.v, pc := pcPlus s 2, mode := .running } ∧
        ∀ r, t.getV r = if r = x then s.getV x ||| s.getV y else s.getV r) ∧
      (∃ t, exec (.andReg x y) s = .next t ∧ t = { s with v := t.v, pc := pcPlus s 2, mode := .running } ∧
        ∀ r, t.getV r = if r = x then s.getV x &&& s.getV y else s.getV r) ∧
      (∃ t, exec (.xorReg x y) s = .next t ∧ t = { s with v := t.v, pc := pcPlus s 2, mode := .running } ∧
        ∀ r, t.getV r = if r = x then s.getV x ^^^ s.getV y else s.getV r)

/-- R106, 8XY4: the flag is left in VF when X = 0xF. -/
def Obligations.AddWithCarry : Prop :=
  ∀ x y : Nibble, decode (0x8#4 ++ x ++ y ++ 0x4#4) = .ok (.addReg x y) ∧
    ∀ s : State, ∃ t, exec (.addReg x y) s = .next t ∧
      t = { s with v := t.v, pc := pcPlus s 2, mode := .running } ∧
      ∀ r, t.getV r =
        if r = 0xF#4 then (if (s.getV x).toNat + (s.getV y).toNat > 255 then 1#8 else 0#8)
        else if r = x then BitVec.ofNat 8 (((s.getV x).toNat + (s.getV y).toNat) % 256)
        else s.getV r

/-- R107 and R109, 8XY5 and 8XY7. -/
def Obligations.SubtractWithNoBorrow : Prop :=
  ∀ x y : Nibble, decode (0x8#4 ++ x ++ y ++ 0x5#4) = .ok (.sub x y) ∧
    decode (0x8#4 ++ x ++ y ++ 0x7#4) = .ok (.subn x y) ∧
    ∀ s : State,
      (∃ t, exec (.sub x y) s = .next t ∧ t = { s with v := t.v, pc := pcPlus s 2, mode := .running } ∧
        ∀ r, t.getV r =
          if r = 0xF#4 then (if (s.getV x).toNat ≥ (s.getV y).toNat then 1#8 else 0#8)
          else if r = x then BitVec.ofInt 8 (((s.getV x).toNat : Int) - (s.getV y).toNat)
          else s.getV r) ∧
      (∃ t, exec (.subn x y) s = .next t ∧ t = { s with v := t.v, pc := pcPlus s 2, mode := .running } ∧
        ∀ r, t.getV r =
          if r = 0xF#4 then (if (s.getV y).toNat ≥ (s.getV x).toNat then 1#8 else 0#8)
          else if r = x then BitVec.ofInt 8 (((s.getV y).toNat : Int) - (s.getV x).toNat)
          else s.getV r)

/-- R108 and R110, 8XY6 and 8XYE: V[Y] is not read. -/
def Obligations.ShiftsByOne : Prop :=
  ∀ x y : Nibble, decode (0x8#4 ++ x ++ y ++ 0x6#4) = .ok (.shr x y) ∧
    decode (0x8#4 ++ x ++ y ++ 0xE#4) = .ok (.shl x y) ∧
    ∀ s : State,
      (∃ t, exec (.shr x y) s = .next t ∧ t = { s with v := t.v, pc := pcPlus s 2, mode := .running } ∧
        ∀ r, t.getV r =
          if r = 0xF#4 then BitVec.ofNat 8 ((s.getV x).toNat % 2)
          else if r = x then BitVec.ofNat 8 ((s.getV x).toNat / 2)
          else s.getV r) ∧
      (∃ t, exec (.shl x y) s = .next t ∧ t = { s with v := t.v, pc := pcPlus s 2, mode := .running } ∧
        ∀ r, t.getV r =
          if r = 0xF#4 then BitVec.ofNat 8 ((s.getV x).toNat / 128)
          else if r = x then BitVec.ofNat 8 ((s.getV x).toNat * 2 % 256)
          else s.getV r)

/-- R111, CXNN: some byte of the random source's AND NN; the byte the source has ready when it has one. How the input
RND is held (`rnd`, `draws`) is the model's choice (log 4). -/
def Obligations.RandomAndImmediate : Prop :=
  ∀ (x : Nibble) (nn : Byte), decode (0xC#4 ++ x ++ nn) = .ok (.rnd x nn) ∧
    ∀ s : State, ∃ (t : State) (b : Byte), exec (.rnd x nn) s = .next t ∧
      t = { s with v := t.v, pc := pcPlus s 2, mode := .running, rnd := s.rnd.tail, draws := t.draws } ∧
      (∀ r, t.getV r = if r = x then b &&& nn else s.getV r) ∧
      (∀ b', s.rnd.head? = some b' → b = b')

/-! ### The index register and memory (R120 to R125) -/

/-- R120, ANNN. -/
def Obligations.LoadIndex : Prop :=
  ∀ nnn : Addr, decode (0xA#4 ++ nnn) = .ok (.ldI nnn) ∧
    ∀ s : State, exec (.ldI nnn) s = .next { s with i := nnn.setWidth 16, pc := pcPlus s 2, mode := .running }

/-- R121, FX1E: VF is written on every execution, from the unwrapped sum of the latched operands. -/
def Obligations.AddToIndex : Prop :=
  ∀ x : Nibble, decode (0xF#4 ++ x ++ 0x1E#8) = .ok (.addIVx x) ∧
    ∀ s : State, ∃ t, exec (.addIVx x) s = .next t ∧
      t = { s with v := t.v, i := BitVec.ofNat 16 ((s.i.toNat + (s.getV x).toNat) % 4096), pc := pcPlus s 2,
                   mode := .running } ∧
      ∀ r, t.getV r =
        if r = 0xF#4 then (if s.i.toNat + (s.getV x).toNat > 0xFFF then 1#8 else 0#8) else s.getV r

/-- R122, FX29: vx is not masked. -/
def Obligations.FontGlyphAddress : Prop :=
  ∀ x : Nibble, decode (0xF#4 ++ x ++ 0x29#8) = .ok (.ldFVx x) ∧
    ∀ s : State, exec (.ldFVx x) s
      = .next { s with i := BitVec.ofNat 16 ((s.getV x).toNat * 5), pc := pcPlus s 2, mode := .running }

/-- R123, FX33: the three digits at I, I + 1, I + 2, every other byte unchanged; past the top it faults. -/
def Obligations.StoreDecimalDigits : Prop :=
  ∀ x : Nibble, decode (0xF#4 ++ x ++ 0x33#8) = .ok (.ldBVx x) ∧
    (∀ s : State, s.i.toNat + 2 ≤ 0xFFF →
      ∃ t, exec (.ldBVx x) s = .next t ∧ t = { s with mem := t.mem, pc := pcPlus s 2, mode := .running } ∧
        Memory.read t.mem s.i.toNat = BitVec.ofNat 8 ((s.getV x).toNat / 100) ∧
        Memory.read t.mem (s.i.toNat + 1) = BitVec.ofNat 8 ((s.getV x).toNat / 10 % 10) ∧
        Memory.read t.mem (s.i.toNat + 2) = BitVec.ofNat 8 ((s.getV x).toNat % 10) ∧
        ∀ a < 4096, a < s.i.toNat ∨ s.i.toNat + 2 < a → Memory.read t.mem a = Memory.read s.mem a) ∧
    (∀ s : State, s.i.toNat + 2 > 0xFFF →
      exec (.ldBVx x) s = .next
        { s with faultCode := .addressOutOfRange, faultPc := s.pc, faultOpcode := 0xF#4 ++ x ++ 0x33#8, mode := .halted })

/-- R124, FX55: V0 to VX at I to I + X, every other byte and I unchanged; past the top it faults. -/
def Obligations.StoreRegisters : Prop :=
  ∀ x : Nibble, decode (0xF#4 ++ x ++ 0x55#8) = .ok (.ldMemVx x) ∧
    (∀ s : State, s.i.toNat + x.toNat ≤ 0xFFF →
      ∃ t, exec (.ldMemVx x) s = .next t ∧ t = { s with mem := t.mem, pc := pcPlus s 2, mode := .running } ∧
        (∀ k ≤ x.toNat, Memory.read t.mem (s.i.toNat + k) = s.getV (BitVec.ofNat 4 k)) ∧
        ∀ a < 4096, a < s.i.toNat ∨ s.i.toNat + x.toNat < a → Memory.read t.mem a = Memory.read s.mem a) ∧
    (∀ s : State, s.i.toNat + x.toNat > 0xFFF →
      exec (.ldMemVx x) s = .next
        { s with faultCode := .addressOutOfRange, faultPc := s.pc, faultOpcode := 0xF#4 ++ x ++ 0x55#8, mode := .halted })

/-- R125, FX65: V0 to VX from I to I + X, registers above X and all of memory unchanged; past the top it faults. -/
def Obligations.LoadRegisters : Prop :=
  ∀ x : Nibble, decode (0xF#4 ++ x ++ 0x65#8) = .ok (.ldVxMem x) ∧
    (∀ s : State, s.i.toNat + x.toNat ≤ 0xFFF →
      ∃ t, exec (.ldVxMem x) s = .next t ∧ t = { s with v := t.v, pc := pcPlus s 2, mode := .running } ∧
        ∀ r, t.getV r =
          if r.toNat ≤ x.toNat then Memory.read s.mem (s.i.toNat + r.toNat) else s.getV r) ∧
    (∀ s : State, s.i.toNat + x.toNat > 0xFFF →
      exec (.ldVxMem x) s = .next
        { s with faultCode := .addressOutOfRange, faultPc := s.pc, faultOpcode := 0xF#4 ++ x ++ 0x65#8, mode := .halted })

/-- R124 and R125 together: what FX55 stored, FX65 with the same X and I loads back, whatever the registers became. -/
def Obligations.StoreThenLoadRegisters : Prop :=
  ∀ (s t u : State) (x : Nibble) (w : Vector Byte 16), s.i.toNat + x.toNat ≤ 0xFFF →
    exec (.ldMemVx x) s = .next t → exec (.ldVxMem x) { t with v := w } = .next u →
      ∀ r : Nibble, r.toNat ≤ x.toNat → u.getV r = s.getV r

/-! ### The framebuffer (R130 to R132) -/

/-- R130, 00E0. -/
def Obligations.ClearScreen : Prop :=
  decode 0x00E0#16 = .ok .cls ∧
  ∀ s : State, ∃ t, exec .cls s = .next t ∧
    t = { s with fb := t.fb, redraw := true, pc := pcPlus s 2, mode := .running } ∧
    ∀ k < 2048, t.fb.cell k = false

/-- R131 and R132, DXYN: each cell is XORed with the sprite bit that lands on it, and VF says whether a lit bit landed on
a set cell. -/
def Obligations.DrawSpriteByCells : Prop :=
  ∀ x y n : Nibble, decode (0xD#4 ++ x ++ y ++ n) = .ok (.drw x y n) ∧
    ∀ s : State, ∃ t, exec (.drw x y n) s = .next t ∧
      t = { s with v := t.v, fb := t.fb, redraw := s.redraw || decide (n.toNat > 0), pc := pcPlus s 2,
                   mode := .running } ∧
      (∀ k < 2048, (litCell s x y n k → t.fb.cell k = !s.fb.cell k) ∧
        (¬litCell s x y n k → t.fb.cell k = s.fb.cell k)) ∧
      (∀ r, r ≠ 0xF#4 → t.getV r = s.getV r) ∧
      ((∃ k, litCell s x y n k ∧ s.fb.cell k = true) → t.getV 0xF#4 = 1#8) ∧
      ((¬∃ k, litCell s x y n k ∧ s.fb.cell k = true) → t.getV 0xF#4 = 0#8)

/-- R132: the same sprite drawn twice at the same place restores the framebuffer, and the second draw sets VF exactly
when a lit bit landed on a cell that was false before the first. -/
def Obligations.DrawTwiceRestores : Prop :=
  ∀ (s t u : State) (x y n : Nibble), exec (.drw x y n) s = .next t → exec (.drw x y n) { t with v := s.v } = .next u →
    u.fb = s.fb ∧ (u.getV 0xF#4 = 1#8 ↔ ∃ k, litCell s x y n k ∧ s.fb.cell k = false)

/-! ### Keypad and timers (R140 to R145, R160 to R163, R86) -/

/-- R140 and R141, EX9E and EXA1. -/
def Obligations.SkipsOnKey : Prop :=
  ∀ x : Nibble, decode (0xE#4 ++ x ++ 0x9E#8) = .ok (.skp x) ∧ decode (0xE#4 ++ x ++ 0xA1#8) = .ok (.sknp x) ∧
    (∀ (s : State) (k : Nat) (h : k < 16), (s.getV x).toNat = k →
      exec (.skp x) s
        = .next { s with pc := if s.key[k] = true then pcPlus s 4 else pcPlus s 2, mode := .running } ∧
      exec (.sknp x) s
        = .next { s with pc := if s.key[k] = false then pcPlus s 4 else pcPlus s 2, mode := .running }) ∧
    (∀ s : State, (s.getV x).toNat > 0xF →
      exec (.skp x) s = .next
        { s with faultCode := .keyIndexOutOfRange, faultPc := s.pc, faultOpcode := 0xE#4 ++ x ++ 0x9E#8, mode := .halted } ∧
      exec (.sknp x) s = .next
        { s with faultCode := .keyIndexOutOfRange, faultPc := s.pc, faultOpcode := 0xE#4 ++ x ++ 0xA1#8, mode := .halted })

/-- R142, FX07. -/
def Obligations.ReadDelayTimer : Prop :=
  ∀ x : Nibble, decode (0xF#4 ++ x ++ 0x07#8) = .ok (.ldVxDt x) ∧
    ∀ s : State, ∃ t, exec (.ldVxDt x) s = .next t ∧
      t = { s with v := t.v, pc := pcPlus s 2, mode := .running } ∧
      ∀ r, t.getV r = if r = x then s.dt else s.getV r

/-- R143, FX0A: it waits while no key is pressed; else it takes the lowest pressed key under Lowest, and a pressed key,
the one KEYPICK names when that is pressed, under Any. How KEYPICK is held (`keyPick`, `draws`) is the model's choice
(log 5). -/
def Obligations.WaitForKey : Prop :=
  ∀ x : Nibble, decode (0xF#4 ++ x ++ 0x0A#8) = .ok (.ldVxK x) ∧
    (∀ s : State, (∀ k, s.keyDown k = false) → exec (.ldVxK x) s = .next { s with mode := .awaitingKey }) ∧
    (∀ s : State, (∃ k, s.keyDown k = true) →
      ∃ (t : State) (k : Nibble), exec (.ldVxK x) s = .next t ∧
        t = { s with v := t.v, pc := pcPlus s 2, mode := .running, keyPick := t.keyPick, draws := t.draws } ∧
        (∀ r, t.getV r = if r = x then k.setWidth 8 else s.getV r) ∧ s.keyDown k = true ∧
        (s.cfg.keySelect = .lowest → ∀ j, s.keyDown j = true → k.toNat ≤ j.toNat) ∧
        (s.cfg.keySelect = .any → ∀ p, s.keyPick.head? = some p → s.keyDown p = true → k = p))

/-- R144 and R145, FX15 and FX18; BEEP is not set by FX18. -/
def Obligations.SetTimers : Prop :=
  ∀ x : Nibble, decode (0xF#4 ++ x ++ 0x15#8) = .ok (.ldDtVx x) ∧ decode (0xF#4 ++ x ++ 0x18#8) = .ok (.ldStVx x) ∧
    ∀ s : State,
      exec (.ldDtVx x) s = .next { s with dt := s.getV x, pc := pcPlus s 2, mode := .running } ∧
      exec (.ldStVx x) s = .next { s with st := s.getV x, pc := pcPlus s 2, mode := .running }

/-- R161 and R162: one decrement, the beep logic looking at ST first. -/
def Obligations.TimerDecrementAndBeep : Prop :=
  ∀ s : State,
    timerDecrement s =
      { s with
        dt := BitVec.ofNat 8 (s.dt.toNat - 1)
        st := BitVec.ofNat 8 (s.st.toNat - 1)
        beep := s.beep ||
          (match s.cfg.beepPolicy with
            | .whileNonzero => decide (s.st.toNat ≠ 0)
            | .onExpiry => decide (s.st.toNat = 1)) }

/-- R163: after n decrements a timer has gone down by n, or is pinned at 0. -/
def Obligations.TimersReachZero : Prop :=
  ∀ (n : Nat) (s : State),
    (decrementTimes n s).dt.toNat = s.dt.toNat - n ∧ (decrementTimes n s).st.toNat = s.st.toNat - n

/-- R160: a Tick decrements under Decoupled in every mode, and has no effect under PerStep. -/
def Obligations.TickByTimerMode : Prop :=
  ∀ s : State,
    (s.cfg.timerMode = .decoupled → applyEvent .tick s = .next (timerDecrement s)) ∧
    (s.cfg.timerMode = .perStep → applyEvent .tick s = .next s)

/-- R86: a Step under PerStep is the Step under Decoupled followed by one decrement when it did not end in Halted, and
the same Step when it did. -/
def Obligations.PerStepIsDecoupledThenDecrement : Prop :=
  ∀ s t u : State, s.cfg.timerMode = .perStep → stepEvent s = .next t →
    stepEvent { s with cfg := { s.cfg with timerMode := .decoupled } } = .next u →
      (t.mode ≠ .halted → t = timerDecrement { u with cfg := s.cfg }) ∧
      (t.mode = .halted → t = { u with cfg := s.cfg })

/-! ### What an instruction may write (R21, R22, R24 to R32, R48) -/

/-- The frame of every instruction: the registers of R21's table, and the component each rule of 10_state.md names. -/
def Obligations.InstructionFrame : Prop :=
  ∀ (i : Instr) (s t : State), exec i s = .next t →
    (∀ r, r ∉ destRegs i → t.getV r = s.getV r) ∧
    ((∀ a, i ≠ .ldI a) → (∀ x, i ≠ .addIVx x) → (∀ x, i ≠ .ldFVx x) → t.i = s.i) ∧
    (i ≠ .ret → (∀ a, i ≠ .call a) → t.sp = s.sp ∧ t.stack = s.stack) ∧
    ((∀ x, i ≠ .ldDtVx x) → t.dt = s.dt) ∧ ((∀ x, i ≠ .ldStVx x) → t.st = s.st) ∧
    (i ≠ .cls → (∀ x y n, i ≠ .drw x y n) → t.fb = s.fb ∧ t.redraw = s.redraw) ∧
    (s.redraw = true → t.redraw = true) ∧ t.beep = s.beep ∧ t.key = s.key ∧ t.cfg = s.cfg ∧
    t.invSeen = s.invSeen ∧ t.invOpcode = s.invOpcode ∧ t.invPc = s.invPc ∧
    t.agenda = s.agenda ∧ t.loadResult = s.loadResult ∧
    (faultOf i s = .none → t.faultCode = s.faultCode ∧ t.faultPc = s.faultPc ∧ t.faultOpcode = s.faultOpcode) ∧
    ((∀ x n, i ≠ .rnd x n) → t.rnd = s.rnd) ∧ ((∀ x, i ≠ .ldVxK x) → t.keyPick = s.keyPick) ∧
    ((∀ x n, i ≠ .rnd x n) → (∀ x, i ≠ .ldVxK x) → t.draws = s.draws) ∧
    ∀ a < 4096, a < s.i.toNat ∨ s.i.toNat + storeBytes i ≤ a → Memory.read t.mem a = Memory.read s.mem a

/-! ### The host's side (R18, R36, R164, R165, R182 to R187, R193) -/

/-- R182, R183 and R184: Load writes the program verbatim from 0x200 when it fits, and no byte otherwise. The record
`loadResult` is the model's (log 9). R156: the result codes are 0, 1 and 2. -/
def Obligations.LoadEventEffects : Prop :=
  (∀ (s : State) (p : List Byte), p.length ≤ 3584 →
    loadOutcome (.bytes p) = .ok ∧
    ∃ t, applyEvent (.load (.bytes p)) s = .next t ∧ t = { s with mem := t.mem, loadResult := some .ok } ∧
      (∀ (j : Nat) (h : j < p.length), Memory.read t.mem (0x200 + j) = p[j]) ∧
      ∀ a < 4096, a < 0x200 ∨ 0x200 + p.length ≤ a → Memory.read t.mem a = Memory.read s.mem a) ∧
  (∀ (s : State) (p : List Byte), p.length > 3584 →
    loadOutcome (.bytes p) = .programOutOfRange ∧
    applyEvent (.load (.bytes p)) s = .next { s with loadResult := some .programOutOfRange }) ∧
  (∀ s : State, loadOutcome .unreadable = .loadFailure ∧
    applyEvent (.load .unreadable) s = .next { s with loadResult := some .loadFailure }) ∧
  loadResultCode .ok = 0 ∧ loadResultCode .loadFailure = 1 ∧ loadResultCode .programOutOfRange = 2

/-- R164, R165 and R187: a key event sets its key and no other, and the host's clears clear their flag and nothing else. -/
def Obligations.HostPortEvents : Prop :=
  (∀ (s : State) (k : Nibble) (b : Bool), ∃ t, applyEvent (.hostKey k b) s = .next t ∧ t = { s with key := t.key } ∧
    ∀ j, t.keyDown j = if j = k then b else s.keyDown j) ∧
  (∀ s : State, applyEvent .hostClearRedraw s = .next { s with redraw := false } ∧
    applyEvent .hostClearBeep s = .next { s with beep := false })

/-- R36: the fields of CORESTAT, with R33's codes of MODE, the other status words, and host writes to them. -/
def Obligations.StatusPorts : Prop :=
  modeCode .running = 0#2 ∧ modeCode .awaitingKey = 1#2 ∧ modeCode .halted = 2#2 ∧
  ∀ s : State,
    (corestat s).extractLsb' 0 2 = modeCode s.mode ∧ (corestat s).getLsbD 2 = s.invSeen ∧
    (corestat s).extractLsb' 3 3 = faultCodeBits s.faultCode ∧ (corestat s).extractLsb' 6 2 = 0#2 ∧
    readStatus s .invOpcode = s.invOpcode ∧ readStatus s .invPc = s.invPc ∧
    readStatus s .faultPc = s.faultPc ∧ readStatus s .faultOpcode = s.faultOpcode ∧
    (readStatus s .corestat).toNat = (corestat s).toNat ∧
    ∀ p w, applyEvent (.writeStatus p w) s = .next s

/-- R185 and R186: a host that keeps the boot order and the table of events never sees the engine stop outside the spec's
own states, from any power-on state. That a Step after a failed Load stops is the model's choice (log 9), as is that a host
outside the contract is otherwise served (log 10), and what the contract takes where the spec leaves it open: a host write
to a status word (log 21), the phases of a Tick and of the host's port events (log 22), and a Tick under PerStep (log 23). -/
def Obligations.ContractHostNeverStops : Prop :=
  ∀ (es : List Event) (s : State), HostPhase.powerOn.keeps es = true → ∃ t, runEvents es s = .next t

/-- R193: a Step of a Parked engine leaves every component unchanged but the mode, which is Running, and the timers and
BEEP under PerStep, and it is Parked again. -/
def Obligations.ParkedStaysParked : Prop :=
  ∀ s : State, s.Inv → s.Parked → s.ReadyToStep →
    ∃ t, step s = .next t ∧ t.Parked ∧
      t = { s with mode := .running, dt := t.dt, st := t.st, beep := t.beep } ∧
      (s.cfg.timerMode = .decoupled → t.dt = s.dt ∧ t.st = s.st ∧ t.beep = s.beep)
end

