-- ==== Sys2Proof/Laws/Encoding.lean ====
section
/-! SUPPORT. What each field of spec/30_encoding.md R61 is in a word of each format of R62. -/

namespace Sys2Proof

/-! ### Fields of appended words -/

theorem extract_append_high {n m : Nat} (a : BitVec n) (b : BitVec m) (lo len : Nat) (h : m ≤ lo) :
    (a ++ b).extractLsb' lo len = a.extractLsb' (lo - m) len := by
  apply BitVec.eq_of_getLsbD_eq
  intro i hi
  simp only [BitVec.getLsbD_extractLsb', BitVec.getLsbD_append]
  rw [if_neg (by omega), show lo + i - m = lo - m + i by omega]

theorem extract_append_low {n m : Nat} (a : BitVec n) (b : BitVec m) (lo len : Nat) (h : lo + len ≤ m) :
    (a ++ b).extractLsb' lo len = b.extractLsb' lo len := by
  apply BitVec.eq_of_getLsbD_eq
  intro i hi
  simp only [BitVec.getLsbD_extractLsb', BitVec.getLsbD_append]
  rw [if_pos (by omega)]

theorem extract_all {n : Nat} (a : BitVec n) : a.extractLsb' 0 n = a := by
  apply BitVec.eq_of_getLsbD_eq
  intro i hi
  simp [hi]

/-! ### Format `ADDR` -/

theorem fieldTop_encAddr (o : Nibble) (a : Addr) : fieldTop (encAddr o a) = o :=
  (extract_append_high o a 12 4 (by decide)).trans (extract_all o)

theorem fieldNNN_encAddr (o : Nibble) (a : Addr) : fieldNNN (encAddr o a) = a :=
  (extract_append_low o a 0 12 (by decide)).trans (extract_all a)

/-! ### Formats `REG_IMM` and `REG` -/

theorem fieldTop_encRegImm (o x : Nibble) (b : Byte) : fieldTop (encRegImm o x b) = o :=
  (extract_append_high (o ++ x) b 12 4 (by decide)).trans
    ((extract_append_high o x 4 4 (by decide)).trans (extract_all o))

theorem fieldX_encRegImm (o x : Nibble) (b : Byte) : fieldX (encRegImm o x b) = x :=
  (extract_append_high (o ++ x) b 8 4 (by decide)).trans
    ((extract_append_low o x 0 4 (by decide)).trans (extract_all x))

theorem fieldNN_encRegImm (o x : Nibble) (b : Byte) : fieldNN (encRegImm o x b) = b :=
  (extract_append_low (o ++ x) b 0 8 (by decide)).trans (extract_all b)

theorem fieldTop_encReg (o x : Nibble) (b : Byte) : fieldTop (encReg o x b) = o := fieldTop_encRegImm o x b

theorem fieldX_encReg (o x : Nibble) (b : Byte) : fieldX (encReg o x b) = x := fieldX_encRegImm o x b

theorem fieldNN_encReg (o x : Nibble) (b : Byte) : fieldNN (encReg o x b) = b := fieldNN_encRegImm o x b

/-! ### Formats `REG_REG` and `DRAW` -/

theorem fieldTop_encRegReg (o x y f : Nibble) : fieldTop (encRegReg o x y f) = o :=
  (extract_append_high (o ++ x) (y ++ f) 12 4 (by decide)).trans
    ((extract_append_high o x 4 4 (by decide)).trans (extract_all o))

theorem fieldX_encRegReg (o x y f : Nibble) : fieldX (encRegReg o x y f) = x :=
  (extract_append_high (o ++ x) (y ++ f) 8 4 (by decide)).trans
    ((extract_append_low o x 0 4 (by decide)).trans (extract_all x))

theorem fieldY_encRegReg (o x y f : Nibble) : fieldY (encRegReg o x y f) = y :=
  (extract_append_low (o ++ x) (y ++ f) 4 4 (by decide)).trans
    ((extract_append_high y f 4 4 (by decide)).trans (extract_all y))

theorem fieldN_encRegReg (o x y f : Nibble) : fieldN (encRegReg o x y f) = f :=
  (extract_append_low (o ++ x) (y ++ f) 0 4 (by decide)).trans
    ((extract_append_low y f 0 4 (by decide)).trans (extract_all f))

/-! ### A word is its fields (R61) -/

theorem word_of_addr_fields (w : Word) : fieldTop w ++ fieldNNN w = w := by
  apply BitVec.eq_of_getLsbD_eq
  intro i hi
  simp only [fieldTop, fieldNNN, BitVec.getLsbD_append, BitVec.getLsbD_extractLsb']
  by_cases h : i < 12
  · simp [h]
  · simp [h, show i - 12 < 4 by omega, show 12 + (i - 12) = i by omega]

theorem word_of_imm_fields (w : Word) : (fieldTop w ++ fieldX w) ++ fieldNN w = w := by
  apply BitVec.eq_of_getLsbD_eq
  intro i hi
  simp only [fieldTop, fieldX, fieldNN, BitVec.getLsbD_append, BitVec.getLsbD_extractLsb']
  by_cases h : i < 8
  · simp [h]
  · by_cases h2 : i - 8 < 4
    · simp [h, h2, show 8 + (i - 8) = i by omega]
    · simp [h, h2, show i - 8 - 4 < 4 by omega, show 12 + (i - 8 - 4) = i by omega]

theorem word_of_reg_fields (w : Word) : (fieldTop w ++ fieldX w) ++ (fieldY w ++ fieldN w) = w := by
  apply BitVec.eq_of_getLsbD_eq
  intro i hi
  simp only [fieldTop, fieldX, fieldY, fieldN, BitVec.getLsbD_append, BitVec.getLsbD_extractLsb']
  by_cases h : i < 8
  · by_cases h2 : i < 4
    · simp [h, h2]
    · simp [h, h2, show i - 4 < 4 by omega, show 4 + (i - 4) = i by omega]
  · by_cases h2 : i - 8 < 4
    · simp [h, h2, show 8 + (i - 8) = i by omega]
    · simp [h, h2, show i - 8 - 4 < 4 by omega, show 12 + (i - 8 - 4) = i by omega]

/-- Four digits written one after another are the word of format `REG_REG` with them. -/
theorem encRegReg_of_nibbles (o x y f : Nibble) : (o ++ x ++ y ++ f : Word) = encRegReg o x y f := by
  apply BitVec.eq_of_getLsbD_eq
  intro i hi
  simp only [encRegReg, BitVec.getLsbD_append]
  by_cases h4 : i < 4
  · simp [h4, show i < 8 by omega]
  · by_cases h8 : i < 8
    · simp [h4, h8, show i - 4 < 4 by omega]
    · simp [h4, h8, show ¬i - 4 < 4 by omega, show i - 4 - 4 = i - 8 by omega]

/-! ### Bytes (R44) -/

theorem highByte_wordOfBytes (hi lo : Byte) : highByte (wordOfBytes hi lo) = hi :=
  (extract_append_high hi lo 8 8 (by decide)).trans (extract_all hi)

theorem lowByte_wordOfBytes (hi lo : Byte) : lowByte (wordOfBytes hi lo) = lo :=
  (extract_append_low hi lo 0 8 (by decide)).trans (extract_all lo)

theorem wordOfBytes_bytes (w : Word) : wordOfBytes (highByte w) (lowByte w) = w := by
  apply BitVec.eq_of_getLsbD_eq
  intro i hi
  simp only [wordOfBytes, highByte, lowByte, BitVec.getLsbD_append, BitVec.getLsbD_extractLsb']
  by_cases h : i < 8
  · simp [h]
  · simp [h, show 8 + (i - 8) = i by omega, show i - 8 < 8 by omega]

/-! ### The constant digits of a format (spec/opcode_table.json's masks) -/

theorem and_ones {n : Nat} (a : BitVec n) : a &&& BitVec.allOnes n = a := BitVec.and_allOnes

theorem mask_encAddr (o : Nibble) (a : Addr) : encAddr o a &&& 0xF000#16 = encAddr o 0 := by
  rw [show (0xF000#16 : Word) = BitVec.allOnes 4 ++ 0#12 by decide, encAddr, BitVec.and_append, and_ones,
    BitVec.and_zero, encAddr]
  rfl

theorem mask_encRegImm (o x : Nibble) (b : Byte) : encRegImm o x b &&& 0xF000#16 = encRegImm o 0 0 := by
  rw [show (0xF000#16 : Word) = (BitVec.allOnes 4 ++ 0#4) ++ 0#8 by decide, encRegImm, BitVec.and_append,
    BitVec.and_append, and_ones, BitVec.and_zero, BitVec.and_zero, encRegImm]
  rfl

theorem mask_encReg (o x : Nibble) (b : Byte) : encReg o x b &&& 0xF0FF#16 = encReg o 0 b := by
  rw [show (0xF0FF#16 : Word) = (BitVec.allOnes 4 ++ 0#4) ++ BitVec.allOnes 8 by decide, encReg, BitVec.and_append,
    BitVec.and_append, and_ones, BitVec.and_zero, and_ones, encReg]
  rfl

theorem mask_encDraw (o x y n : Nibble) : encRegReg o x y n &&& 0xF000#16 = encRegReg o 0 0 0 :=
  mask_encRegImm o x (y ++ n)

theorem mask_encRegReg (o x y f : Nibble) : encRegReg o x y f &&& 0xF00F#16 = encRegReg o 0 0 f := by
  rw [show (0xF00F#16 : Word) = (BitVec.allOnes 4 ++ 0#4) ++ (0#4 ++ BitVec.allOnes 4) by decide, encRegReg,
    BitVec.and_append, BitVec.and_append, BitVec.and_append, and_ones, and_ones, BitVec.and_zero, BitVec.and_zero,
    encRegReg]
  rfl

end Sys2Proof
end

