-- ==== Sys2Proof/Laws/Framebuffer.lean ====
section
/-! SUPPORT. The framebuffer as 2048 cells (spec/10_state.md R29, spec/44_display.md R131, R132). -/

namespace Sys2Proof.Machine

/-- Toggling a cell changes that cell and no other. -/
theorem Framebuffer.cell_toggle (fb : Framebuffer) (k j : Nat) (hk : k < 2048) (hj : j < 2048) :
    (fb.toggle k).cell j = if k = j then !fb.cell k else fb.cell j := by
  unfold Framebuffer.cell Framebuffer.toggle
  by_cases h : k = j
  · subst h; simp [Nat.mod_lt]
  · rw [if_neg h, Vector.getElem_set]
    split
    · rename_i hr
      have hm : k % 64 ≠ j % 64 := by unfold rowOf at hr; omega
      simp [hr, hm]
    · rfl

/-- Two framebuffers with the same cells are the same. -/
theorem Framebuffer.eq_of_cells (fb fb' : Framebuffer) (h : ∀ k < 2048, fb.cell k = fb'.cell k) : fb = fb' := by
  apply Vector.ext
  intro y hy
  apply BitVec.eq_of_getLsbD_eq
  intro x hx
  have := h (y * 64 + x) (by omega)
  have hr : rowOf (y * 64 + x) = y := by unfold rowOf; omega
  have hm : (y * 64 + x) % 64 = x := by omega
  simpa [Framebuffer.cell, hr, hm] using this

/-- Every cell of the cleared framebuffer is false (R130). -/
@[simp] theorem Framebuffer.cell_clear (k : Nat) : Framebuffer.cell (Vector.replicate 32 0#64) k = false := by
  simp [Framebuffer.cell]

theorem cellIndex_lt (x y : Nat) : cellIndex x y < 2048 := by unfold cellIndex; omega

/-- Cells are the same only at the same column and row, modulo the screen (R132). -/
theorem cellIndex_inj (x y x' y' : Nat) :
    cellIndex x y = cellIndex x' y' ↔ x % 64 = x' % 64 ∧ y % 32 = y' % 32 := by
  unfold cellIndex; omega

/-- Every cell a sprite toggles is on the screen. -/
theorem spriteCells_lt (s : State) (vx vy n k : Nat) (h : k ∈ spriteCells s vx vy n) : k < 2048 := by
  simp only [spriteCells, rowCells, List.mem_flatMap, List.mem_filterMap] at h
  obtain ⟨r, -, c, -, h⟩ := h
  split at h
  · cases h; exact cellIndex_lt _ _
  · cases h

/-- R131's loop over cells of the screen, none twice: each listed cell is flipped, no other, and the collision bit says
whether a listed cell was set before the loop. -/
theorem drawCells_spec (ks : List Nat) (fb : Framebuffer) (coll : Bool) (hk : ∀ k ∈ ks, k < 2048) (hn : ks.Nodup) :
    (∀ j < 2048, (drawCells ks fb coll).1.cell j = (fb.cell j ^^ decide (j ∈ ks))) ∧
      (drawCells ks fb coll).2 = (coll || ks.any fb.cell) := by
  induction ks generalizing fb coll with
  | nil => simp [drawCells]
  | cons k ks ih =>
    obtain ⟨hknot, hn⟩ := List.nodup_cons.1 hn
    have hk0 : k < 2048 := hk k (by simp)
    obtain ⟨h1, h2⟩ := ih (fb.toggle k) (coll || fb.cell k) (fun j hj => hk j (by simp [hj])) hn
    refine ⟨fun j hj => ?_, ?_⟩
    · rw [drawCells, h1 j hj, Framebuffer.cell_toggle fb k j hk0 hj]
      by_cases hkj : k = j
      · subst hkj; simp [hknot]
      · simp [hkj, Ne.symm hkj]
    · rw [drawCells, h2, List.any_cons, Bool.or_assoc]
      have : ks.any (fb.toggle k).cell = ks.any fb.cell := by
        rw [Bool.eq_iff_iff]
        simp only [List.any_eq_true]
        refine exists_congr fun j => and_congr_right fun hj => ?_
        have hkj : k ≠ j := fun h => hknot (h ▸ hj)
        rw [Framebuffer.cell_toggle fb k j hk0 (hk j (by simp [hj])), if_neg hkj]
      rw [this]

end Sys2Proof.Machine
end

