-- ==== Sys2Proof/Laws/Memory.lean ====
section
/-! SUPPORT. The laws of memory: a read after a write, the frame of a write, and the canonical form every memory
operation keeps (log 1). -/

namespace Sys2Proof.Machine

/-! ### Lists of cells -/

theorem Memory.listed_insert (m : Memory) (a a' : Nat) (b : Byte) :
    Memory.listed (Memory.insert m a b) a' = if a = a' then some b else Memory.listed m a' := by
  induction m with
  | nil => simp [Memory.insert, Memory.listed]
  | cons c m ih =>
    obtain ⟨k, x⟩ := c
    simp only [Memory.insert]
    split
    · simp [Memory.listed]
    · split
      · subst_vars; simp only [Memory.listed]; split <;> rfl
      · simp only [Memory.listed, ih]; split <;> split <;> simp_all

theorem Memory.listed_erase (m : Memory) (a a' : Nat) :
    Memory.listed (Memory.erase m a) a' = if a = a' then none else Memory.listed m a' := by
  induction m with
  | nil => simp [Memory.erase, Memory.listed]
  | cons c m ih =>
    obtain ⟨k, x⟩ := c
    simp only [Memory.erase]
    split
    · subst_vars; simp only [ih, Memory.listed]; split <;> rfl
    · simp only [Memory.listed, ih]; split <;> split <;> simp_all

theorem Memory.risingFrom_mono (m : Memory) (lo lo' : Nat) (hlo : lo' ≤ lo) (h : Memory.risingFrom lo m = true) :
    Memory.risingFrom lo' m = true := by
  cases m with
  | nil => rfl
  | cons c m =>
    simp only [Memory.risingFrom, Bool.and_eq_true, decide_eq_true_eq] at h ⊢
    exact ⟨by omega, h.2⟩

theorem Memory.risingFrom_insert (m : Memory) (lo a : Nat) (b : Byte) (ha : lo ≤ a)
    (h : Memory.risingFrom lo m = true) : Memory.risingFrom lo (Memory.insert m a b) = true := by
  induction m generalizing lo with
  | nil => simp [Memory.insert, Memory.risingFrom, ha]
  | cons c m ih =>
    obtain ⟨k, x⟩ := c
    simp only [Memory.risingFrom, Bool.and_eq_true, decide_eq_true_eq] at h
    simp only [Memory.insert]
    split
    · simp only [Memory.risingFrom, Bool.and_eq_true, decide_eq_true_eq]; exact ⟨ha, by omega, h.2⟩
    · split
      · subst_vars; simp only [Memory.risingFrom, Bool.and_eq_true, decide_eq_true_eq]; exact ⟨ha, h.2⟩
      · simp only [Memory.risingFrom, Bool.and_eq_true, decide_eq_true_eq]
        exact ⟨h.1, ih (k + 1) (by omega) h.2⟩

theorem Memory.risingFrom_erase (m : Memory) (lo a : Nat) (h : Memory.risingFrom lo m = true) :
    Memory.risingFrom lo (Memory.erase m a) = true := by
  induction m generalizing lo with
  | nil => rfl
  | cons c m ih =>
    obtain ⟨k, x⟩ := c
    simp only [Memory.risingFrom, Bool.and_eq_true, decide_eq_true_eq] at h
    simp only [Memory.erase]
    split
    · exact Memory.risingFrom_mono _ (k + 1) lo (by omega) (ih (k + 1) h.2)
    · simp only [Memory.risingFrom, Bool.and_eq_true, decide_eq_true_eq]; exact ⟨h.1, ih (k + 1) h.2⟩

theorem Memory.mem_insert (m : Memory) (a : Nat) (b : Byte) (c : Host.Cell) (h : c ∈ Memory.insert m a b) :
    c = (a, b) ∨ c ∈ m := by
  induction m with
  | nil => simpa [Memory.insert] using h
  | cons d m ih =>
    obtain ⟨k, x⟩ := d
    simp only [Memory.insert] at h
    split at h
    · simpa using h
    · split at h
      · simp only [List.mem_cons] at h ⊢; tauto
      · simp only [List.mem_cons] at h ⊢
        rcases h with h | h
        · tauto
        · rcases ih h with h | h <;> tauto

theorem Memory.mem_erase (m : Memory) (a : Nat) (c : Host.Cell) (h : c ∈ Memory.erase m a) : c ∈ m := by
  induction m with
  | nil => simp [Memory.erase] at h
  | cons d m ih =>
    obtain ⟨k, x⟩ := d
    simp only [Memory.erase] at h
    split at h
    · exact List.mem_cons_of_mem _ (ih h)
    · simp only [List.mem_cons] at h ⊢; exact h.imp_right ih

/-! ### The canonical form -/

/-- `Memory.wf` as a proposition about the list and its cells. -/
theorem Memory.wf_iff (m : Memory) :
    Memory.wf m = true ↔
      Memory.risingFrom 0 m = true ∧ ∀ c ∈ m, c.1 < memSize ∧ Memory.unlisted c.1 ≠ some c.2 := by
  simp [Memory.wf]

@[simp] theorem Memory.wf_nil : Memory.wf [] = true := rfl

/-- A write keeps the canonical form. -/
theorem Memory.wf_write (m : Memory) (a : Nat) (b : Byte) (h : Memory.wf m = true) :
    Memory.wf (Memory.write m a b) = true := by
  rw [Memory.wf_iff] at h ⊢
  have hlt : a % memSize < memSize := Nat.mod_lt _ (by decide)
  unfold Memory.write
  split
  · exact ⟨Memory.risingFrom_erase m 0 _ h.1, fun c hc => h.2 c (Memory.mem_erase m _ c hc)⟩
  · rename_i hne
    refine ⟨Memory.risingFrom_insert m 0 _ b (Nat.zero_le _) h.1, fun c hc => ?_⟩
    rcases Memory.mem_insert m _ b c hc with rfl | hc
    · exact ⟨hlt, hne⟩
    · exact h.2 c hc

/-- Consecutive writes keep the canonical form. -/
theorem Memory.wf_writeBytes (m : Memory) (a : Nat) (bs : List Byte) (h : Memory.wf m = true) :
    Memory.wf (Memory.writeBytes m a bs) = true := by
  induction bs generalizing m a with
  | nil => exact h
  | cons b bs ih => exact ih _ _ (Memory.wf_write m a b h)

/-! ### Reading what was written -/

/-- A read depends on the address modulo 4096 only (R15). -/
theorem Memory.read_mod (m : Memory) (a : Nat) : Memory.read m (a % memSize) = Memory.read m a := by
  simp [Memory.read]

/-- A byte read after a write: the byte written at its own address, the old byte everywhere else (R49). -/
theorem Memory.read_write (m : Memory) (a a' : Nat) (b : Byte) :
    Memory.read (Memory.write m a b) a' = if a % memSize = a' % memSize then b else Memory.read m a' := by
  unfold Memory.write Memory.read
  by_cases hu : Memory.unlisted (a % memSize) = some b
  · rw [if_pos hu, Memory.listed_erase]
    by_cases ha : a % memSize = a' % memSize
    · rw [if_pos ha, if_pos ha, ← ha, hu]
    · rw [if_neg ha, if_neg ha]
  · rw [if_neg hu, Memory.listed_insert]
    by_cases ha : a % memSize = a' % memSize
    · rw [if_pos ha, if_pos ha]
    · rw [if_neg ha, if_neg ha]

@[simp] theorem Memory.read_write_same (m : Memory) (a : Nat) (b : Byte) :
    Memory.read (Memory.write m a b) a = b := by
  simp [Memory.read_write]

theorem Memory.read_write_other (m : Memory) (a a' : Nat) (b : Byte) (ha : a % memSize ≠ a' % memSize) :
    Memory.read (Memory.write m a b) a' = Memory.read m a' := by
  simp [Memory.read_write, ha]

/-- Bytes outside a run of consecutive writes read as before. -/
theorem Memory.read_writeBytes_outside (m : Memory) (a a' : Nat) (bs : List Byte)
    (ha : ∀ j < bs.length, (a + j) % memSize ≠ a' % memSize) :
    Memory.read (Memory.writeBytes m a bs) a' = Memory.read m a' := by
  induction bs generalizing m a with
  | nil => rfl
  | cons b bs ih =>
    have h0 : a % memSize ≠ a' % memSize := by simpa using ha 0 (by simp)
    rw [Memory.writeBytes, ih, Memory.read_write_other m a a' b h0]
    intro j hj
    have := ha (j + 1) (by simpa using hj)
    rwa [show a + 1 + j = a + (j + 1) by omega]

/-- The `j`-th byte of a run of at most 4096 consecutive writes reads back. -/
theorem Memory.read_writeBytes_inside (m : Memory) (a : Nat) (bs : List Byte) (hl : bs.length ≤ memSize) (j : Nat)
    (hj : j < bs.length) : Memory.read (Memory.writeBytes m a bs) (a + j) = bs[j] := by
  induction bs generalizing m a j with
  | nil => simp at hj
  | cons b bs ih =>
    simp only [List.length_cons] at hl hj
    rw [Memory.writeBytes]
    cases j with
    | zero =>
      rw [Memory.read_writeBytes_outside]
      · simp
      · intro j hj'
        unfold memSize at *
        omega
    | succ j =>
      have := ih (Memory.write m a b) (a + 1) (by omega) j (by omega)
      rw [show a + (j + 1) = a + 1 + j by omega, this]
      simp

/-- In reset memory the font region reads as the default `FONT` (R37, R39). -/
theorem Memory.read_nil_font (a : Nat) (h : a < 80) : Memory.read [] a = Config.defaultFont[a]'h := by
  have hm : a % memSize = a := Nat.mod_eq_of_lt (by unfold memSize; omega)
  simp [Memory.read, Memory.listed, Memory.unlisted, hm, h]

end Sys2Proof.Machine
end

