-- ==== Sys2Proof/Laws/State.lean ====
section
/-! SUPPORT. One lemma per field per named update of the state, each true by unfolding, so that no proof unfolds a record
update. -/

namespace Sys2Proof.Machine

/-! ### `State.setV` -/

@[simp] theorem State.setV_v (s : State) (x : Nibble) (b : Byte) : (s.setV x b).v = s.v.set x.toNat b x.isLt := rfl
@[simp] theorem State.setV_pc (s : State) (x : Nibble) (b : Byte) : (s.setV x b).pc = s.pc := rfl
@[simp] theorem State.setV_i (s : State) (x : Nibble) (b : Byte) : (s.setV x b).i = s.i := rfl
@[simp] theorem State.setV_stack (s : State) (x : Nibble) (b : Byte) : (s.setV x b).stack = s.stack := rfl
@[simp] theorem State.setV_sp (s : State) (x : Nibble) (b : Byte) : (s.setV x b).sp = s.sp := rfl
@[simp] theorem State.setV_dt (s : State) (x : Nibble) (b : Byte) : (s.setV x b).dt = s.dt := rfl
@[simp] theorem State.setV_st (s : State) (x : Nibble) (b : Byte) : (s.setV x b).st = s.st := rfl
@[simp] theorem State.setV_fb (s : State) (x : Nibble) (b : Byte) : (s.setV x b).fb = s.fb := rfl
@[simp] theorem State.setV_redraw (s : State) (x : Nibble) (b : Byte) : (s.setV x b).redraw = s.redraw := rfl
@[simp] theorem State.setV_beep (s : State) (x : Nibble) (b : Byte) : (s.setV x b).beep = s.beep := rfl
@[simp] theorem State.setV_mode (s : State) (x : Nibble) (b : Byte) : (s.setV x b).mode = s.mode := rfl
@[simp] theorem State.setV_invSeen (s : State) (x : Nibble) (b : Byte) : (s.setV x b).invSeen = s.invSeen := rfl
@[simp] theorem State.setV_invOpcode (s : State) (x : Nibble) (b : Byte) : (s.setV x b).invOpcode = s.invOpcode := rfl
@[simp] theorem State.setV_invPc (s : State) (x : Nibble) (b : Byte) : (s.setV x b).invPc = s.invPc := rfl
@[simp] theorem State.setV_faultCode (s : State) (x : Nibble) (b : Byte) : (s.setV x b).faultCode = s.faultCode := rfl
@[simp] theorem State.setV_faultPc (s : State) (x : Nibble) (b : Byte) : (s.setV x b).faultPc = s.faultPc := rfl
@[simp] theorem State.setV_faultOpcode (s : State) (x : Nibble) (b : Byte) : (s.setV x b).faultOpcode = s.faultOpcode := rfl
@[simp] theorem State.setV_mem (s : State) (x : Nibble) (b : Byte) : (s.setV x b).mem = s.mem := rfl
@[simp] theorem State.setV_key (s : State) (x : Nibble) (b : Byte) : (s.setV x b).key = s.key := rfl
@[simp] theorem State.setV_cfg (s : State) (x : Nibble) (b : Byte) : (s.setV x b).cfg = s.cfg := rfl
@[simp] theorem State.setV_rnd (s : State) (x : Nibble) (b : Byte) : (s.setV x b).rnd = s.rnd := rfl
@[simp] theorem State.setV_keyPick (s : State) (x : Nibble) (b : Byte) : (s.setV x b).keyPick = s.keyPick := rfl
@[simp] theorem State.setV_draws (s : State) (x : Nibble) (b : Byte) : (s.setV x b).draws = s.draws := rfl
@[simp] theorem State.setV_loadResult (s : State) (x : Nibble) (b : Byte) : (s.setV x b).loadResult = s.loadResult := rfl
@[simp] theorem State.setV_agenda (s : State) (x : Nibble) (b : Byte) : (s.setV x b).agenda = s.agenda := rfl

/-! ### `State.setFlag` -/

@[simp] theorem State.setFlag_v (s : State) (c : Bool) : (s.setFlag c).v = s.v.set 15 (flagByte c) := rfl
@[simp] theorem State.setFlag_pc (s : State) (c : Bool) : (s.setFlag c).pc = s.pc := rfl
@[simp] theorem State.setFlag_i (s : State) (c : Bool) : (s.setFlag c).i = s.i := rfl
@[simp] theorem State.setFlag_stack (s : State) (c : Bool) : (s.setFlag c).stack = s.stack := rfl
@[simp] theorem State.setFlag_sp (s : State) (c : Bool) : (s.setFlag c).sp = s.sp := rfl
@[simp] theorem State.setFlag_dt (s : State) (c : Bool) : (s.setFlag c).dt = s.dt := rfl
@[simp] theorem State.setFlag_st (s : State) (c : Bool) : (s.setFlag c).st = s.st := rfl
@[simp] theorem State.setFlag_fb (s : State) (c : Bool) : (s.setFlag c).fb = s.fb := rfl
@[simp] theorem State.setFlag_redraw (s : State) (c : Bool) : (s.setFlag c).redraw = s.redraw := rfl
@[simp] theorem State.setFlag_beep (s : State) (c : Bool) : (s.setFlag c).beep = s.beep := rfl
@[simp] theorem State.setFlag_mode (s : State) (c : Bool) : (s.setFlag c).mode = s.mode := rfl
@[simp] theorem State.setFlag_invSeen (s : State) (c : Bool) : (s.setFlag c).invSeen = s.invSeen := rfl
@[simp] theorem State.setFlag_invOpcode (s : State) (c : Bool) : (s.setFlag c).invOpcode = s.invOpcode := rfl
@[simp] theorem State.setFlag_invPc (s : State) (c : Bool) : (s.setFlag c).invPc = s.invPc := rfl
@[simp] theorem State.setFlag_faultCode (s : State) (c : Bool) : (s.setFlag c).faultCode = s.faultCode := rfl
@[simp] theorem State.setFlag_faultPc (s : State) (c : Bool) : (s.setFlag c).faultPc = s.faultPc := rfl
@[simp] theorem State.setFlag_faultOpcode (s : State) (c : Bool) : (s.setFlag c).faultOpcode = s.faultOpcode := rfl
@[simp] theorem State.setFlag_mem (s : State) (c : Bool) : (s.setFlag c).mem = s.mem := rfl
@[simp] theorem State.setFlag_key (s : State) (c : Bool) : (s.setFlag c).key = s.key := rfl
@[simp] theorem State.setFlag_cfg (s : State) (c : Bool) : (s.setFlag c).cfg = s.cfg := rfl
@[simp] theorem State.setFlag_rnd (s : State) (c : Bool) : (s.setFlag c).rnd = s.rnd := rfl
@[simp] theorem State.setFlag_keyPick (s : State) (c : Bool) : (s.setFlag c).keyPick = s.keyPick := rfl
@[simp] theorem State.setFlag_draws (s : State) (c : Bool) : (s.setFlag c).draws = s.draws := rfl
@[simp] theorem State.setFlag_loadResult (s : State) (c : Bool) : (s.setFlag c).loadResult = s.loadResult := rfl
@[simp] theorem State.setFlag_agenda (s : State) (c : Bool) : (s.setFlag c).agenda = s.agenda := rfl

/-! ### `State.setPc` -/

@[simp] theorem State.setPc_v (s : State) (n : Nat) : (s.setPc n).v = s.v := rfl
@[simp] theorem State.setPc_pc (s : State) (n : Nat) : (s.setPc n).pc = wrap12 n := rfl
@[simp] theorem State.setPc_i (s : State) (n : Nat) : (s.setPc n).i = s.i := rfl
@[simp] theorem State.setPc_stack (s : State) (n : Nat) : (s.setPc n).stack = s.stack := rfl
@[simp] theorem State.setPc_sp (s : State) (n : Nat) : (s.setPc n).sp = s.sp := rfl
@[simp] theorem State.setPc_dt (s : State) (n : Nat) : (s.setPc n).dt = s.dt := rfl
@[simp] theorem State.setPc_st (s : State) (n : Nat) : (s.setPc n).st = s.st := rfl
@[simp] theorem State.setPc_fb (s : State) (n : Nat) : (s.setPc n).fb = s.fb := rfl
@[simp] theorem State.setPc_redraw (s : State) (n : Nat) : (s.setPc n).redraw = s.redraw := rfl
@[simp] theorem State.setPc_beep (s : State) (n : Nat) : (s.setPc n).beep = s.beep := rfl
@[simp] theorem State.setPc_mode (s : State) (n : Nat) : (s.setPc n).mode = s.mode := rfl
@[simp] theorem State.setPc_invSeen (s : State) (n : Nat) : (s.setPc n).invSeen = s.invSeen := rfl
@[simp] theorem State.setPc_invOpcode (s : State) (n : Nat) : (s.setPc n).invOpcode = s.invOpcode := rfl
@[simp] theorem State.setPc_invPc (s : State) (n : Nat) : (s.setPc n).invPc = s.invPc := rfl
@[simp] theorem State.setPc_faultCode (s : State) (n : Nat) : (s.setPc n).faultCode = s.faultCode := rfl
@[simp] theorem State.setPc_faultPc (s : State) (n : Nat) : (s.setPc n).faultPc = s.faultPc := rfl
@[simp] theorem State.setPc_faultOpcode (s : State) (n : Nat) : (s.setPc n).faultOpcode = s.faultOpcode := rfl
@[simp] theorem State.setPc_mem (s : State) (n : Nat) : (s.setPc n).mem = s.mem := rfl
@[simp] theorem State.setPc_key (s : State) (n : Nat) : (s.setPc n).key = s.key := rfl
@[simp] theorem State.setPc_cfg (s : State) (n : Nat) : (s.setPc n).cfg = s.cfg := rfl
@[simp] theorem State.setPc_rnd (s : State) (n : Nat) : (s.setPc n).rnd = s.rnd := rfl
@[simp] theorem State.setPc_keyPick (s : State) (n : Nat) : (s.setPc n).keyPick = s.keyPick := rfl
@[simp] theorem State.setPc_draws (s : State) (n : Nat) : (s.setPc n).draws = s.draws := rfl
@[simp] theorem State.setPc_loadResult (s : State) (n : Nat) : (s.setPc n).loadResult = s.loadResult := rfl
@[simp] theorem State.setPc_agenda (s : State) (n : Nat) : (s.setPc n).agenda = s.agenda := rfl

/-! ### `State.setI` -/

@[simp] theorem State.setI_v (s : State) (n : Nat) : (s.setI n).v = s.v := rfl
@[simp] theorem State.setI_pc (s : State) (n : Nat) : (s.setI n).pc = s.pc := rfl
@[simp] theorem State.setI_i (s : State) (n : Nat) : (s.setI n).i = wrap12 n := rfl
@[simp] theorem State.setI_stack (s : State) (n : Nat) : (s.setI n).stack = s.stack := rfl
@[simp] theorem State.setI_sp (s : State) (n : Nat) : (s.setI n).sp = s.sp := rfl
@[simp] theorem State.setI_dt (s : State) (n : Nat) : (s.setI n).dt = s.dt := rfl
@[simp] theorem State.setI_st (s : State) (n : Nat) : (s.setI n).st = s.st := rfl
@[simp] theorem State.setI_fb (s : State) (n : Nat) : (s.setI n).fb = s.fb := rfl
@[simp] theorem State.setI_redraw (s : State) (n : Nat) : (s.setI n).redraw = s.redraw := rfl
@[simp] theorem State.setI_beep (s : State) (n : Nat) : (s.setI n).beep = s.beep := rfl
@[simp] theorem State.setI_mode (s : State) (n : Nat) : (s.setI n).mode = s.mode := rfl
@[simp] theorem State.setI_invSeen (s : State) (n : Nat) : (s.setI n).invSeen = s.invSeen := rfl
@[simp] theorem State.setI_invOpcode (s : State) (n : Nat) : (s.setI n).invOpcode = s.invOpcode := rfl
@[simp] theorem State.setI_invPc (s : State) (n : Nat) : (s.setI n).invPc = s.invPc := rfl
@[simp] theorem State.setI_faultCode (s : State) (n : Nat) : (s.setI n).faultCode = s.faultCode := rfl
@[simp] theorem State.setI_faultPc (s : State) (n : Nat) : (s.setI n).faultPc = s.faultPc := rfl
@[simp] theorem State.setI_faultOpcode (s : State) (n : Nat) : (s.setI n).faultOpcode = s.faultOpcode := rfl
@[simp] theorem State.setI_mem (s : State) (n : Nat) : (s.setI n).mem = s.mem := rfl
@[simp] theorem State.setI_key (s : State) (n : Nat) : (s.setI n).key = s.key := rfl
@[simp] theorem State.setI_cfg (s : State) (n : Nat) : (s.setI n).cfg = s.cfg := rfl
@[simp] theorem State.setI_rnd (s : State) (n : Nat) : (s.setI n).rnd = s.rnd := rfl
@[simp] theorem State.setI_keyPick (s : State) (n : Nat) : (s.setI n).keyPick = s.keyPick := rfl
@[simp] theorem State.setI_draws (s : State) (n : Nat) : (s.setI n).draws = s.draws := rfl
@[simp] theorem State.setI_loadResult (s : State) (n : Nat) : (s.setI n).loadResult = s.loadResult := rfl
@[simp] theorem State.setI_agenda (s : State) (n : Nat) : (s.setI n).agenda = s.agenda := rfl

/-! ### `State.advance` -/

@[simp] theorem State.advance_v (s : State) (k : Nat) : (s.advance k).v = s.v := rfl
@[simp] theorem State.advance_pc (s : State) (k : Nat) : (s.advance k).pc = wrap12 (s.pc.toNat + k) := rfl
@[simp] theorem State.advance_i (s : State) (k : Nat) : (s.advance k).i = s.i := rfl
@[simp] theorem State.advance_stack (s : State) (k : Nat) : (s.advance k).stack = s.stack := rfl
@[simp] theorem State.advance_sp (s : State) (k : Nat) : (s.advance k).sp = s.sp := rfl
@[simp] theorem State.advance_dt (s : State) (k : Nat) : (s.advance k).dt = s.dt := rfl
@[simp] theorem State.advance_st (s : State) (k : Nat) : (s.advance k).st = s.st := rfl
@[simp] theorem State.advance_fb (s : State) (k : Nat) : (s.advance k).fb = s.fb := rfl
@[simp] theorem State.advance_redraw (s : State) (k : Nat) : (s.advance k).redraw = s.redraw := rfl
@[simp] theorem State.advance_beep (s : State) (k : Nat) : (s.advance k).beep = s.beep := rfl
@[simp] theorem State.advance_mode (s : State) (k : Nat) : (s.advance k).mode = s.mode := rfl
@[simp] theorem State.advance_invSeen (s : State) (k : Nat) : (s.advance k).invSeen = s.invSeen := rfl
@[simp] theorem State.advance_invOpcode (s : State) (k : Nat) : (s.advance k).invOpcode = s.invOpcode := rfl
@[simp] theorem State.advance_invPc (s : State) (k : Nat) : (s.advance k).invPc = s.invPc := rfl
@[simp] theorem State.advance_faultCode (s : State) (k : Nat) : (s.advance k).faultCode = s.faultCode := rfl
@[simp] theorem State.advance_faultPc (s : State) (k : Nat) : (s.advance k).faultPc = s.faultPc := rfl
@[simp] theorem State.advance_faultOpcode (s : State) (k : Nat) : (s.advance k).faultOpcode = s.faultOpcode := rfl
@[simp] theorem State.advance_mem (s : State) (k : Nat) : (s.advance k).mem = s.mem := rfl
@[simp] theorem State.advance_key (s : State) (k : Nat) : (s.advance k).key = s.key := rfl
@[simp] theorem State.advance_cfg (s : State) (k : Nat) : (s.advance k).cfg = s.cfg := rfl
@[simp] theorem State.advance_rnd (s : State) (k : Nat) : (s.advance k).rnd = s.rnd := rfl
@[simp] theorem State.advance_keyPick (s : State) (k : Nat) : (s.advance k).keyPick = s.keyPick := rfl
@[simp] theorem State.advance_draws (s : State) (k : Nat) : (s.advance k).draws = s.draws := rfl
@[simp] theorem State.advance_loadResult (s : State) (k : Nat) : (s.advance k).loadResult = s.loadResult := rfl
@[simp] theorem State.advance_agenda (s : State) (k : Nat) : (s.advance k).agenda = s.agenda := rfl

/-! ### `State.push` -/

@[simp] theorem State.push_v (s : State) (w : Word) (h : s.sp.val < 16) : (s.push w h).v = s.v := rfl
@[simp] theorem State.push_pc (s : State) (w : Word) (h : s.sp.val < 16) : (s.push w h).pc = s.pc := rfl
@[simp] theorem State.push_i (s : State) (w : Word) (h : s.sp.val < 16) : (s.push w h).i = s.i := rfl
@[simp] theorem State.push_stack (s : State) (w : Word) (h : s.sp.val < 16) : (s.push w h).stack = s.stack.set s.sp.val w h := rfl
@[simp] theorem State.push_sp (s : State) (w : Word) (h : s.sp.val < 16) : (s.push w h).sp = ⟨s.sp.val + 1, Nat.succ_lt_succ h⟩ := rfl
@[simp] theorem State.push_dt (s : State) (w : Word) (h : s.sp.val < 16) : (s.push w h).dt = s.dt := rfl
@[simp] theorem State.push_st (s : State) (w : Word) (h : s.sp.val < 16) : (s.push w h).st = s.st := rfl
@[simp] theorem State.push_fb (s : State) (w : Word) (h : s.sp.val < 16) : (s.push w h).fb = s.fb := rfl
@[simp] theorem State.push_redraw (s : State) (w : Word) (h : s.sp.val < 16) : (s.push w h).redraw = s.redraw := rfl
@[simp] theorem State.push_beep (s : State) (w : Word) (h : s.sp.val < 16) : (s.push w h).beep = s.beep := rfl
@[simp] theorem State.push_mode (s : State) (w : Word) (h : s.sp.val < 16) : (s.push w h).mode = s.mode := rfl
@[simp] theorem State.push_invSeen (s : State) (w : Word) (h : s.sp.val < 16) : (s.push w h).invSeen = s.invSeen := rfl
@[simp] theorem State.push_invOpcode (s : State) (w : Word) (h : s.sp.val < 16) : (s.push w h).invOpcode = s.invOpcode := rfl
@[simp] theorem State.push_invPc (s : State) (w : Word) (h : s.sp.val < 16) : (s.push w h).invPc = s.invPc := rfl
@[simp] theorem State.push_faultCode (s : State) (w : Word) (h : s.sp.val < 16) : (s.push w h).faultCode = s.faultCode := rfl
@[simp] theorem State.push_faultPc (s : State) (w : Word) (h : s.sp.val < 16) : (s.push w h).faultPc = s.faultPc := rfl
@[simp] theorem State.push_faultOpcode (s : State) (w : Word) (h : s.sp.val < 16) : (s.push w h).faultOpcode = s.faultOpcode := rfl
@[simp] theorem State.push_mem (s : State) (w : Word) (h : s.sp.val < 16) : (s.push w h).mem = s.mem := rfl
@[simp] theorem State.push_key (s : State) (w : Word) (h : s.sp.val < 16) : (s.push w h).key = s.key := rfl
@[simp] theorem State.push_cfg (s : State) (w : Word) (h : s.sp.val < 16) : (s.push w h).cfg = s.cfg := rfl
@[simp] theorem State.push_rnd (s : State) (w : Word) (h : s.sp.val < 16) : (s.push w h).rnd = s.rnd := rfl
@[simp] theorem State.push_keyPick (s : State) (w : Word) (h : s.sp.val < 16) : (s.push w h).keyPick = s.keyPick := rfl
@[simp] theorem State.push_draws (s : State) (w : Word) (h : s.sp.val < 16) : (s.push w h).draws = s.draws := rfl
@[simp] theorem State.push_loadResult (s : State) (w : Word) (h : s.sp.val < 16) : (s.push w h).loadResult = s.loadResult := rfl
@[simp] theorem State.push_agenda (s : State) (w : Word) (h : s.sp.val < 16) : (s.push w h).agenda = s.agenda := rfl

/-! ### `State.drop` -/

@[simp] theorem State.drop_v (s : State) : s.drop.v = s.v := rfl
@[simp] theorem State.drop_pc (s : State) : s.drop.pc = s.pc := rfl
@[simp] theorem State.drop_i (s : State) : s.drop.i = s.i := rfl
@[simp] theorem State.drop_stack (s : State) : s.drop.stack = s.stack := rfl
@[simp] theorem State.drop_sp_val (s : State) : (s.drop).sp.val = s.sp.val - 1 := rfl
@[simp] theorem State.drop_dt (s : State) : s.drop.dt = s.dt := rfl
@[simp] theorem State.drop_st (s : State) : s.drop.st = s.st := rfl
@[simp] theorem State.drop_fb (s : State) : s.drop.fb = s.fb := rfl
@[simp] theorem State.drop_redraw (s : State) : s.drop.redraw = s.redraw := rfl
@[simp] theorem State.drop_beep (s : State) : s.drop.beep = s.beep := rfl
@[simp] theorem State.drop_mode (s : State) : s.drop.mode = s.mode := rfl
@[simp] theorem State.drop_invSeen (s : State) : s.drop.invSeen = s.invSeen := rfl
@[simp] theorem State.drop_invOpcode (s : State) : s.drop.invOpcode = s.invOpcode := rfl
@[simp] theorem State.drop_invPc (s : State) : s.drop.invPc = s.invPc := rfl
@[simp] theorem State.drop_faultCode (s : State) : s.drop.faultCode = s.faultCode := rfl
@[simp] theorem State.drop_faultPc (s : State) : s.drop.faultPc = s.faultPc := rfl
@[simp] theorem State.drop_faultOpcode (s : State) : s.drop.faultOpcode = s.faultOpcode := rfl
@[simp] theorem State.drop_mem (s : State) : s.drop.mem = s.mem := rfl
@[simp] theorem State.drop_key (s : State) : s.drop.key = s.key := rfl
@[simp] theorem State.drop_cfg (s : State) : s.drop.cfg = s.cfg := rfl
@[simp] theorem State.drop_rnd (s : State) : s.drop.rnd = s.rnd := rfl
@[simp] theorem State.drop_keyPick (s : State) : s.drop.keyPick = s.keyPick := rfl
@[simp] theorem State.drop_draws (s : State) : s.drop.draws = s.draws := rfl
@[simp] theorem State.drop_loadResult (s : State) : s.drop.loadResult = s.loadResult := rfl
@[simp] theorem State.drop_agenda (s : State) : s.drop.agenda = s.agenda := rfl

/-! ### `timerDecrement` -/

@[simp] theorem timerDecrement_v (s : State) : (timerDecrement s).v = s.v := rfl
@[simp] theorem timerDecrement_pc (s : State) : (timerDecrement s).pc = s.pc := rfl
@[simp] theorem timerDecrement_i (s : State) : (timerDecrement s).i = s.i := rfl
@[simp] theorem timerDecrement_stack (s : State) : (timerDecrement s).stack = s.stack := rfl
@[simp] theorem timerDecrement_sp (s : State) : (timerDecrement s).sp = s.sp := rfl
@[simp] theorem timerDecrement_dt (s : State) : (timerDecrement s).dt = countDown s.dt := rfl
@[simp] theorem timerDecrement_st (s : State) : (timerDecrement s).st = countDown s.st := rfl
@[simp] theorem timerDecrement_fb (s : State) : (timerDecrement s).fb = s.fb := rfl
@[simp] theorem timerDecrement_redraw (s : State) : (timerDecrement s).redraw = s.redraw := rfl
@[simp] theorem timerDecrement_beep (s : State) : (timerDecrement s).beep = (s.beep || beepDue s.cfg.beepPolicy s.st) := rfl
@[simp] theorem timerDecrement_mode (s : State) : (timerDecrement s).mode = s.mode := rfl
@[simp] theorem timerDecrement_invSeen (s : State) : (timerDecrement s).invSeen = s.invSeen := rfl
@[simp] theorem timerDecrement_invOpcode (s : State) : (timerDecrement s).invOpcode = s.invOpcode := rfl
@[simp] theorem timerDecrement_invPc (s : State) : (timerDecrement s).invPc = s.invPc := rfl
@[simp] theorem timerDecrement_faultCode (s : State) : (timerDecrement s).faultCode = s.faultCode := rfl
@[simp] theorem timerDecrement_faultPc (s : State) : (timerDecrement s).faultPc = s.faultPc := rfl
@[simp] theorem timerDecrement_faultOpcode (s : State) : (timerDecrement s).faultOpcode = s.faultOpcode := rfl
@[simp] theorem timerDecrement_mem (s : State) : (timerDecrement s).mem = s.mem := rfl
@[simp] theorem timerDecrement_key (s : State) : (timerDecrement s).key = s.key := rfl
@[simp] theorem timerDecrement_cfg (s : State) : (timerDecrement s).cfg = s.cfg := rfl
@[simp] theorem timerDecrement_rnd (s : State) : (timerDecrement s).rnd = s.rnd := rfl
@[simp] theorem timerDecrement_keyPick (s : State) : (timerDecrement s).keyPick = s.keyPick := rfl
@[simp] theorem timerDecrement_draws (s : State) : (timerDecrement s).draws = s.draws := rfl
@[simp] theorem timerDecrement_loadResult (s : State) : (timerDecrement s).loadResult = s.loadResult := rfl
@[simp] theorem timerDecrement_agenda (s : State) : (timerDecrement s).agenda = s.agenda := rfl

/-! ### `reportInvalid` -/

@[simp] theorem reportInvalid_v (s : State) (op : Word) : (reportInvalid op s).v = s.v := rfl
@[simp] theorem reportInvalid_pc (s : State) (op : Word) : (reportInvalid op s).pc = wrap12 (s.pc.toNat + 2) := rfl
@[simp] theorem reportInvalid_i (s : State) (op : Word) : (reportInvalid op s).i = s.i := rfl
@[simp] theorem reportInvalid_stack (s : State) (op : Word) : (reportInvalid op s).stack = s.stack := rfl
@[simp] theorem reportInvalid_sp (s : State) (op : Word) : (reportInvalid op s).sp = s.sp := rfl
@[simp] theorem reportInvalid_dt (s : State) (op : Word) : (reportInvalid op s).dt = s.dt := rfl
@[simp] theorem reportInvalid_st (s : State) (op : Word) : (reportInvalid op s).st = s.st := rfl
@[simp] theorem reportInvalid_fb (s : State) (op : Word) : (reportInvalid op s).fb = s.fb := rfl
@[simp] theorem reportInvalid_redraw (s : State) (op : Word) : (reportInvalid op s).redraw = s.redraw := rfl
@[simp] theorem reportInvalid_beep (s : State) (op : Word) : (reportInvalid op s).beep = s.beep := rfl
@[simp] theorem reportInvalid_mode (s : State) (op : Word) : (reportInvalid op s).mode = .running := rfl
@[simp] theorem reportInvalid_invSeen (s : State) (op : Word) : (reportInvalid op s).invSeen = true := rfl
@[simp] theorem reportInvalid_invOpcode (s : State) (op : Word) : (reportInvalid op s).invOpcode = op := rfl
@[simp] theorem reportInvalid_invPc (s : State) (op : Word) : (reportInvalid op s).invPc = s.pc := rfl
@[simp] theorem reportInvalid_faultCode (s : State) (op : Word) : (reportInvalid op s).faultCode = s.faultCode := rfl
@[simp] theorem reportInvalid_faultPc (s : State) (op : Word) : (reportInvalid op s).faultPc = s.faultPc := rfl
@[simp] theorem reportInvalid_faultOpcode (s : State) (op : Word) : (reportInvalid op s).faultOpcode = s.faultOpcode := rfl
@[simp] theorem reportInvalid_mem (s : State) (op : Word) : (reportInvalid op s).mem = s.mem := rfl
@[simp] theorem reportInvalid_key (s : State) (op : Word) : (reportInvalid op s).key = s.key := rfl
@[simp] theorem reportInvalid_cfg (s : State) (op : Word) : (reportInvalid op s).cfg = s.cfg := rfl
@[simp] theorem reportInvalid_rnd (s : State) (op : Word) : (reportInvalid op s).rnd = s.rnd := rfl
@[simp] theorem reportInvalid_keyPick (s : State) (op : Word) : (reportInvalid op s).keyPick = s.keyPick := rfl
@[simp] theorem reportInvalid_draws (s : State) (op : Word) : (reportInvalid op s).draws = s.draws := rfl
@[simp] theorem reportInvalid_loadResult (s : State) (op : Word) : (reportInvalid op s).loadResult = s.loadResult := rfl
@[simp] theorem reportInvalid_agenda (s : State) (op : Word) : (reportInvalid op s).agenda = s.agenda := rfl

end Sys2Proof.Machine
end

