-- ==== Sys2Proof/Laws/Registers.lean ====
section
/-! SUPPORT. Registers, the program counter and the index: what a read gives after a write (spec/10_state.md R21 to R24). -/

namespace Sys2Proof.Machine

/-! ### `wrap12` (R23, R24) -/

@[simp] theorem wrap12_toNat (n : Nat) : (wrap12 n).toNat = n % 4096 := by
  simp only [wrap12, BitVec.toNat_ofNat]; omega

theorem wrap12_lt (n : Nat) : (wrap12 n).toNat < 4096 := by rw [wrap12_toNat]; exact Nat.mod_lt _ (by decide)

/-- A word whose bits 15:12 are zero is its own reduction. -/
theorem wrap12_self (w : Word) (h : w.toNat < 4096) : wrap12 w.toNat = w := by
  apply BitVec.eq_of_toNat_eq; rw [wrap12_toNat]; omega

/-! ### `V` (R21, R22) -/

theorem State.getV_setV (s : State) (x r : Nibble) (b : Byte) :
    (s.setV x b).getV r = if x = r then b else s.getV r := by
  simp [State.getV, State.setV, Vector.getElem_set, BitVec.toNat_inj]

@[simp] theorem State.getV_setV_same (s : State) (x : Nibble) (b : Byte) : (s.setV x b).getV x = b := by
  simp [State.getV_setV]

theorem State.getV_setV_other (s : State) (x r : Nibble) (b : Byte) (h : r ≠ x) : (s.setV x b).getV r = s.getV r := by
  simp [State.getV_setV, h.symm]

theorem State.getV_setFlag (s : State) (c : Bool) (r : Nibble) :
    (s.setFlag c).getV r = if r = 15#4 then flagByte c else s.getV r := by
  simp [State.setFlag, State.getV_setV, eq_comm]

@[simp] theorem State.getV_setPc (s : State) (n : Nat) (r : Nibble) : (s.setPc n).getV r = s.getV r := rfl
@[simp] theorem State.getV_setI (s : State) (n : Nat) (r : Nibble) : (s.setI n).getV r = s.getV r := rfl
@[simp] theorem State.getV_advance (s : State) (k : Nat) (r : Nibble) : (s.advance k).getV r = s.getV r := rfl
@[simp] theorem State.getV_timerDecrement (s : State) (r : Nibble) : (timerDecrement s).getV r = s.getV r := rfl
@[simp] theorem State.getV_reportInvalid (s : State) (op : Word) (r : Nibble) :
    (reportInvalid op s).getV r = s.getV r := rfl

@[simp] theorem regOfNat_toNat (x : Nibble) : regOfNat x.toNat = x := by simp [regOfNat]

theorem regOfNat_val (k : Nat) (h : k < 16) : (regOfNat k).toNat = k := by simp [regOfNat]; omega

/-! ### Register blocks (R125) -/

/-- Register `r` after consecutive writes to registers `k` to `k + length - 1`. -/
theorem getElem_setRegs (v : Vector Byte 16) (k : Nat) (bs : List Byte) (hk : k + bs.length ≤ 16) (r : Nat)
    (hr : r < 16) :
    (setRegs v k bs)[r] = if h : k ≤ r ∧ r < k + bs.length then bs[r - k]'(by omega) else v[r] := by
  induction bs generalizing v k with
  | nil => simp only [setRegs, List.length_nil]; rw [dif_neg (by omega)]
  | cons b bs ih =>
    simp only [List.length_cons] at hk
    rw [setRegs, ih _ _ (by omega)]
    simp only [List.length_cons, Vector.getElem_set, regOfNat_val k (by omega)]
    by_cases hrk : k = r
    · subst hrk
      rw [dif_neg (by omega), dif_pos (by omega), if_pos rfl]
      simp
    · by_cases h : k + 1 ≤ r ∧ r < k + 1 + bs.length
      · rw [dif_pos h, dif_pos (by omega), List.getElem_cons, dif_neg (by omega)]
        simp [Nat.sub_sub]
      · rw [dif_neg h, dif_neg (by omega), if_neg hrk]

/-- Register `r` after a block write: the `r`-th byte when there is one, else its old value. -/
theorem State.getV_setBlock (s : State) (bs : List Byte) (hk : bs.length ≤ 16) (r : Nibble) :
    (s.setBlock bs).getV r = if h : r.toNat < bs.length then bs[r.toNat] else s.getV r := by
  simp only [State.getV, State.setBlock]
  rw [getElem_setRegs _ _ _ (by omega) _ r.isLt]
  simp

@[simp] theorem blockBytes_length (s : State) (x : Nibble) : (blockBytes s x).length = x.toNat + 1 := by
  simp [blockBytes]

@[simp] theorem blockRegs_length (s : State) (x : Nibble) : (blockRegs s x).length = x.toNat + 1 := by
  simp [blockRegs]

@[simp] theorem bcdDigits_length (a : Byte) : (bcdDigits a).length = 3 := rfl

end Sys2Proof.Machine
end

