-- ==== Sys2Proof/Laws/Outcome.lean ====
section
/-! SUPPORT. What each shared operation can do, said once: the ends of an instruction, the draws, the Step and the host's
events. Proofs cite these and unfold nothing. -/

namespace Sys2Proof.Machine

/-! ### The ends of an instruction -/

theorem complete_next {s t : State} (h : complete s = .next t) : t = { s with mode := .running } := by
  cases h; rfl

theorem completeNext_next {s t : State} (h : completeNext s = .next t) :
    t = { s with pc := wrap12 (s.pc.toNat + 2), mode := .running } := by
  cases h; rfl

theorem completeSkip_next {c : Bool} {s t : State} (h : completeSkip c s = .next t) :
    t = { s with pc := wrap12 (s.pc.toNat + if c then 4 else 2), mode := .running } := by
  cases h; rfl

theorem awaitKey_next {s t : State} (h : awaitKey s = .next t) : t = { s with mode := .awaitingKey } := by
  cases h; rfl

theorem takeFault_next {code : FaultCode} {op : Word} {s t : State} (h : takeFault code op s = .next t) :
    t = { s with faultCode := code, faultPc := s.pc, faultOpcode := op, mode := .halted } := by
  cases h; rfl

theorem writeReg_next {x : Nibble} {b : Byte} {s t : State} (h : writeReg x b s = .next t) :
    t = { s.setV x b with pc := wrap12 (s.pc.toNat + 2), mode := .running } := by
  cases h; rfl

theorem writeRegFlag_next {x : Nibble} {b : Byte} {c : Bool} {s t : State} (h : writeRegFlag x b c s = .next t) :
    t = { (s.setV x b).setFlag c with pc := wrap12 (s.pc.toNat + 2), mode := .running } := by
  cases h; rfl

/-! ### The draws (log 4, log 5) -/

/-- The draw of `RND` changes only the source's bytes and the counter. -/
theorem drawRnd_frame (s : State) :
    (drawRnd s).2 = { s with rnd := (drawRnd s).2.rnd, draws := (drawRnd s).2.draws } := by
  unfold drawRnd; split <;> rfl

theorem drawRnd_ready (s : State) (b : Byte) (rest : List Byte) (h : s.rnd = b :: rest) :
    drawRnd s = (b, { s with rnd := rest }) := by
  simp [drawRnd, h]

/-- A free pick is one of the pressed keys, and changes only the counter. -/
theorem freePick_spec (k : Nibble) (ks : List Nibble) (s : State) :
    (freePick k ks s).1 ∈ k :: ks ∧ (freePick k ks s).2 = { s with draws := s.draws + 1 } := by
  refine ⟨?_, rfl⟩
  have hlt : Config.keyDraw s.draws % (k :: ks).length < (k :: ks).length := Nat.mod_lt _ (by simp)
  simp only [freePick, List.getD_eq_getElem?_getD, List.getElem?_eq_getElem hlt, Option.getD_some]
  exact List.getElem_mem hlt

/-- The pick is one of the pressed keys, and changes only the host's picks and the counter. -/
theorem drawKey_spec (k : Nibble) (ks : List Nibble) (s : State) :
    (drawKey k ks s).1 ∈ k :: ks ∧
      (drawKey k ks s).2 = { s with keyPick := (drawKey k ks s).2.keyPick, draws := (drawKey k ks s).2.draws } := by
  unfold drawKey
  split
  · split
    · exact ⟨‹_›, rfl⟩
    · exact ⟨(freePick_spec k ks _).1, rfl⟩
  · exact ⟨(freePick_spec k ks s).1, rfl⟩

theorem selectKey_spec (k : Nibble) (ks : List Nibble) (s : State) :
    (selectKey k ks s).1 ∈ k :: ks ∧
      (selectKey k ks s).2 =
        { s with keyPick := (selectKey k ks s).2.keyPick, draws := (selectKey k ks s).2.draws } := by
  unfold selectKey
  split
  · exact ⟨by simp, rfl⟩
  · exact drawKey_spec k ks s

/-- The pressed keys are exactly the keys that are down (R143). -/
theorem mem_pressedKeys (s : State) (k : Nibble) : k ∈ pressedKeys s ↔ s.keyDown k = true := by
  simp only [pressedKeys, List.mem_filter, List.mem_map, List.mem_range, and_iff_right_iff_imp]
  intro _
  exact ⟨k.toNat, k.isLt, regOfNat_toNat k⟩

/-- The pressed keys are listed lowest first. -/
theorem pressedKeys_sorted (s : State) : (pressedKeys s).Pairwise (fun a b => a.toNat < b.toNat) := by
  apply List.Pairwise.filter
  decide

/-! ### Timers -/

/-- The timer phase changes the timers and `BEEP` only. -/
theorem timerPhase_frame (s : State) :
    timerPhase s = { s with dt := (timerPhase s).dt, st := (timerPhase s).st, beep := (timerPhase s).beep } := by
  unfold timerPhase; split <;> rfl

theorem tickEvent_frame (s : State) :
    tickEvent s = { s with dt := (tickEvent s).dt, st := (tickEvent s).st, beep := (tickEvent s).beep } := by
  unfold tickEvent; split <;> rfl

@[simp] theorem countDown_toNat (t : Byte) : (countDown t).toNat = t.toNat - 1 := by
  unfold countDown
  split
  · subst_vars; rfl
  · rename_i h
    have : t.toNat ≠ 0 := fun h0 => h (BitVec.eq_of_toNat_eq h0)
    rw [BitVec.toNat_sub_of_le]
    · rfl
    · rw [BitVec.le_def]; simp; omega

/-! ### The Step and the events -/

/-- What the end of a Step can do with the instruction's answer (R80, R86). -/
theorem afterExec_cases {r : Result} {t : State} (h : afterExec r = .next t) :
    ∃ u, r = .next u ∧ ((u.mode = .halted ∧ t = u) ∨ (u.mode ≠ .halted ∧ t = timerPhase u)) := by
  cases r with
  | next u =>
    simp only [afterExec] at h
    split at h
    · cases h; exact ⟨_, rfl, .inl ⟨‹_›, rfl⟩⟩
    · cases h; exact ⟨u, rfl, .inr ⟨‹_›, rfl⟩⟩
  | fault r => cases h
  | refused r => cases h

/-- Everything a Step that answers a next state can have done (R80). -/
theorem stepEvent_cases {s t : State} (h : stepEvent s = .next t) :
    (s.mode = .halted ∧ t = s) ∨
      (s.mode ≠ .halted ∧ loadFailed s = false ∧
        ((∃ i u, decode (fetch s) = .ok i ∧ exec i s = .next u ∧
            ((u.mode = .halted ∧ t = u) ∨ (u.mode ≠ .halted ∧ t = timerPhase u))) ∨
          (∃ c, decode (fetch s) = .error c ∧ t = timerPhase (reportInvalid (fetch s) s)))) := by
  unfold stepEvent at h
  split at h
  · cases h; exact .inl ⟨‹_›, rfl⟩
  · split at h
    · cases h
    · refine .inr ⟨‹_›, by simpa using ‹¬loadFailed s = true›, ?_⟩
      unfold runCycle at h
      split at h
      · obtain ⟨u, hu, hc⟩ := afterExec_cases h
        exact .inl ⟨_, u, ‹_›, hu, hc⟩
      · cases h; exact .inr ⟨_, ‹_›, rfl⟩

/-- One step is one event: a Step when the agenda is empty, else the agenda's first event (log 7). -/
theorem step_cases {s t : State} (h : step s = .next t) :
    (s.agenda = [] ∧ stepEvent s = .next t) ∨
      (∃ e rest, s.agenda = e :: rest ∧ applyEvent e { s with agenda := rest } = .next t) := by
  unfold step nextEvent at h
  split at h
  · exact .inl ⟨‹_›, h⟩
  · exact .inr ⟨_, _, ‹_›, h⟩

end Sys2Proof.Machine
end

