-- ==== Sys2Proof/Laws/PerInstr.lean ====
section
/-! SUPPORT. Statements made for every instruction, one lemma a constructor. `TableRow`: the instruction is well formed
and its word has every constant digit of its row of spec/opcode_table.json (spec/30_encoding.md R62, R66). -/

namespace Sys2Proof.Laws.TableRow

/-- The instruction's operands are in range, and its word matches the row of its mnemonic. -/
def Statement (i : Instr) : Prop :=
  i.wellFormed = true ∧ ∃ r ∈ opcodeRows, r.mnemonic = mnemonic i ∧ rowMatches r (encode i) = true

theorem reg_wellFormed (x : Nibble) : Operand.wellFormed (.reg x.toNat) = true := decide_eq_true x.isLt
theorem byte_wellFormed (b : Byte) : Operand.wellFormed (.byte b.toNat) = true := decide_eq_true b.isLt
theorem nibble_wellFormed (n : Nibble) : Operand.wellFormed (.nibble n.toNat) = true := decide_eq_true n.isLt
theorem addr_wellFormed (a : Addr) : Operand.wellFormed (.addr a.toNat) = true := decide_eq_true a.isLt

/-- A word whose masked bits are the row's pattern matches the row. -/
theorem rowMatches_of (r : OpcodeRow) (w : Word) (h : w &&& r.mask = r.pattern) : rowMatches r w = true := by
  simp [rowMatches, h]

theorem cls : Statement (Instr.cls) :=
  ⟨rfl,
    ⟨"CLS", 0x00E0, 0xFFFF⟩, by decide, rfl, rfl⟩

theorem ret : Statement (Instr.ret) :=
  ⟨rfl,
    ⟨"RET", 0x00EE, 0xFFFF⟩, by decide, rfl, rfl⟩

theorem jp (a : Addr) : Statement (Instr.jp a) :=
  ⟨by simp [Instr.wellFormed, Instr.operands, addr_wellFormed],
    ⟨"JP", 0x1000, 0xF000⟩, by decide, rfl, rowMatches_of _ _ ((mask_encAddr ..).trans (by decide))⟩

theorem call (a : Addr) : Statement (Instr.call a) :=
  ⟨by simp [Instr.wellFormed, Instr.operands, addr_wellFormed],
    ⟨"CALL", 0x2000, 0xF000⟩, by decide, rfl, rowMatches_of _ _ ((mask_encAddr ..).trans (by decide))⟩

theorem seImm (x : Nibble) (b : Byte) : Statement (Instr.seImm x b) :=
  ⟨by simp [Instr.wellFormed, Instr.operands, reg_wellFormed, byte_wellFormed],
    ⟨"SE_IMM", 0x3000, 0xF000⟩, by decide, rfl, rowMatches_of _ _ ((mask_encRegImm ..).trans (by decide))⟩

theorem sneImm (x : Nibble) (b : Byte) : Statement (Instr.sneImm x b) :=
  ⟨by simp [Instr.wellFormed, Instr.operands, reg_wellFormed, byte_wellFormed],
    ⟨"SNE_IMM", 0x4000, 0xF000⟩, by decide, rfl, rowMatches_of _ _ ((mask_encRegImm ..).trans (by decide))⟩

theorem seReg (x y : Nibble) : Statement (Instr.seReg x y) :=
  ⟨by simp [Instr.wellFormed, Instr.operands, reg_wellFormed],
    ⟨"SE_REG", 0x5000, 0xF00F⟩, by decide, rfl, rowMatches_of _ _ ((mask_encRegReg ..).trans (by decide))⟩

theorem sneReg (x y : Nibble) : Statement (Instr.sneReg x y) :=
  ⟨by simp [Instr.wellFormed, Instr.operands, reg_wellFormed],
    ⟨"SNE_REG", 0x9000, 0xF00F⟩, by decide, rfl, rowMatches_of _ _ ((mask_encRegReg ..).trans (by decide))⟩

theorem jpV0 (a : Addr) : Statement (Instr.jpV0 a) :=
  ⟨by simp [Instr.wellFormed, Instr.operands, Operand.wellFormed]; omega,
    ⟨"JP_V0", 0xB000, 0xF000⟩, by decide, rfl, rowMatches_of _ _ ((mask_encAddr ..).trans (by decide))⟩

theorem ldImm (x : Nibble) (b : Byte) : Statement (Instr.ldImm x b) :=
  ⟨by simp [Instr.wellFormed, Instr.operands, reg_wellFormed, byte_wellFormed],
    ⟨"LD_IMM", 0x6000, 0xF000⟩, by decide, rfl, rowMatches_of _ _ ((mask_encRegImm ..).trans (by decide))⟩

theorem addImm (x : Nibble) (b : Byte) : Statement (Instr.addImm x b) :=
  ⟨by simp [Instr.wellFormed, Instr.operands, reg_wellFormed, byte_wellFormed],
    ⟨"ADD_IMM", 0x7000, 0xF000⟩, by decide, rfl, rowMatches_of _ _ ((mask_encRegImm ..).trans (by decide))⟩

theorem ldReg (x y : Nibble) : Statement (Instr.ldReg x y) :=
  ⟨by simp [Instr.wellFormed, Instr.operands, reg_wellFormed],
    ⟨"LD_REG", 0x8000, 0xF00F⟩, by decide, rfl, rowMatches_of _ _ ((mask_encRegReg ..).trans (by decide))⟩

theorem orReg (x y : Nibble) : Statement (Instr.orReg x y) :=
  ⟨by simp [Instr.wellFormed, Instr.operands, reg_wellFormed],
    ⟨"OR", 0x8001, 0xF00F⟩, by decide, rfl, rowMatches_of _ _ ((mask_encRegReg ..).trans (by decide))⟩

theorem andReg (x y : Nibble) : Statement (Instr.andReg x y) :=
  ⟨by simp [Instr.wellFormed, Instr.operands, reg_wellFormed],
    ⟨"AND", 0x8002, 0xF00F⟩, by decide, rfl, rowMatches_of _ _ ((mask_encRegReg ..).trans (by decide))⟩

theorem xorReg (x y : Nibble) : Statement (Instr.xorReg x y) :=
  ⟨by simp [Instr.wellFormed, Instr.operands, reg_wellFormed],
    ⟨"XOR", 0x8003, 0xF00F⟩, by decide, rfl, rowMatches_of _ _ ((mask_encRegReg ..).trans (by decide))⟩

theorem addReg (x y : Nibble) : Statement (Instr.addReg x y) :=
  ⟨by simp [Instr.wellFormed, Instr.operands, reg_wellFormed],
    ⟨"ADD_REG", 0x8004, 0xF00F⟩, by decide, rfl, rowMatches_of _ _ ((mask_encRegReg ..).trans (by decide))⟩

theorem sub (x y : Nibble) : Statement (Instr.sub x y) :=
  ⟨by simp [Instr.wellFormed, Instr.operands, reg_wellFormed],
    ⟨"SUB", 0x8005, 0xF00F⟩, by decide, rfl, rowMatches_of _ _ ((mask_encRegReg ..).trans (by decide))⟩

theorem shr (x y : Nibble) : Statement (Instr.shr x y) :=
  ⟨by simp [Instr.wellFormed, Instr.operands, reg_wellFormed],
    ⟨"SHR", 0x8006, 0xF00F⟩, by decide, rfl, rowMatches_of _ _ ((mask_encRegReg ..).trans (by decide))⟩

theorem subn (x y : Nibble) : Statement (Instr.subn x y) :=
  ⟨by simp [Instr.wellFormed, Instr.operands, reg_wellFormed],
    ⟨"SUBN", 0x8007, 0xF00F⟩, by decide, rfl, rowMatches_of _ _ ((mask_encRegReg ..).trans (by decide))⟩

theorem shl (x y : Nibble) : Statement (Instr.shl x y) :=
  ⟨by simp [Instr.wellFormed, Instr.operands, reg_wellFormed],
    ⟨"SHL", 0x800E, 0xF00F⟩, by decide, rfl, rowMatches_of _ _ ((mask_encRegReg ..).trans (by decide))⟩

theorem rnd (x : Nibble) (b : Byte) : Statement (Instr.rnd x b) :=
  ⟨by simp [Instr.wellFormed, Instr.operands, reg_wellFormed, byte_wellFormed],
    ⟨"RND", 0xC000, 0xF000⟩, by decide, rfl, rowMatches_of _ _ ((mask_encRegImm ..).trans (by decide))⟩

theorem ldI (a : Addr) : Statement (Instr.ldI a) :=
  ⟨by simp [Instr.wellFormed, Instr.operands, addr_wellFormed],
    ⟨"LD_I", 0xA000, 0xF000⟩, by decide, rfl, rowMatches_of _ _ ((mask_encAddr ..).trans (by decide))⟩

theorem addIVx (x : Nibble) : Statement (Instr.addIVx x) :=
  ⟨by simp [Instr.wellFormed, Instr.operands, reg_wellFormed],
    ⟨"ADD_I_VX", 0xF01E, 0xF0FF⟩, by decide, rfl, rowMatches_of _ _ ((mask_encReg ..).trans (by decide))⟩

theorem ldFVx (x : Nibble) : Statement (Instr.ldFVx x) :=
  ⟨by simp [Instr.wellFormed, Instr.operands, reg_wellFormed],
    ⟨"LD_F_VX", 0xF029, 0xF0FF⟩, by decide, rfl, rowMatches_of _ _ ((mask_encReg ..).trans (by decide))⟩

theorem ldBVx (x : Nibble) : Statement (Instr.ldBVx x) :=
  ⟨by simp [Instr.wellFormed, Instr.operands, reg_wellFormed],
    ⟨"LD_B_VX", 0xF033, 0xF0FF⟩, by decide, rfl, rowMatches_of _ _ ((mask_encReg ..).trans (by decide))⟩

theorem ldMemVx (x : Nibble) : Statement (Instr.ldMemVx x) :=
  ⟨by simp [Instr.wellFormed, Instr.operands, reg_wellFormed],
    ⟨"LD_MEM_VX", 0xF055, 0xF0FF⟩, by decide, rfl, rowMatches_of _ _ ((mask_encReg ..).trans (by decide))⟩

theorem ldVxMem (x : Nibble) : Statement (Instr.ldVxMem x) :=
  ⟨by simp [Instr.wellFormed, Instr.operands, reg_wellFormed],
    ⟨"LD_VX_MEM", 0xF065, 0xF0FF⟩, by decide, rfl, rowMatches_of _ _ ((mask_encReg ..).trans (by decide))⟩

theorem drw (x y n : Nibble) : Statement (Instr.drw x y n) :=
  ⟨by simp [Instr.wellFormed, Instr.operands, reg_wellFormed, nibble_wellFormed],
    ⟨"DRW", 0xD000, 0xF000⟩, by decide, rfl, rowMatches_of _ _ ((mask_encDraw ..).trans (by decide))⟩

theorem skp (x : Nibble) : Statement (Instr.skp x) :=
  ⟨by simp [Instr.wellFormed, Instr.operands, reg_wellFormed],
    ⟨"SKP", 0xE09E, 0xF0FF⟩, by decide, rfl, rowMatches_of _ _ ((mask_encReg ..).trans (by decide))⟩

theorem sknp (x : Nibble) : Statement (Instr.sknp x) :=
  ⟨by simp [Instr.wellFormed, Instr.operands, reg_wellFormed],
    ⟨"SKNP", 0xE0A1, 0xF0FF⟩, by decide, rfl, rowMatches_of _ _ ((mask_encReg ..).trans (by decide))⟩

theorem ldVxDt (x : Nibble) : Statement (Instr.ldVxDt x) :=
  ⟨by simp [Instr.wellFormed, Instr.operands, reg_wellFormed],
    ⟨"LD_VX_DT", 0xF007, 0xF0FF⟩, by decide, rfl, rowMatches_of _ _ ((mask_encReg ..).trans (by decide))⟩

theorem ldVxK (x : Nibble) : Statement (Instr.ldVxK x) :=
  ⟨by simp [Instr.wellFormed, Instr.operands, reg_wellFormed],
    ⟨"LD_VX_K", 0xF00A, 0xF0FF⟩, by decide, rfl, rowMatches_of _ _ ((mask_encReg ..).trans (by decide))⟩

theorem ldDtVx (x : Nibble) : Statement (Instr.ldDtVx x) :=
  ⟨by simp [Instr.wellFormed, Instr.operands, reg_wellFormed],
    ⟨"LD_DT_VX", 0xF015, 0xF0FF⟩, by decide, rfl, rowMatches_of _ _ ((mask_encReg ..).trans (by decide))⟩

theorem ldStVx (x : Nibble) : Statement (Instr.ldStVx x) :=
  ⟨by simp [Instr.wellFormed, Instr.operands, reg_wellFormed],
    ⟨"LD_ST_VX", 0xF018, 0xF0FF⟩, by decide, rfl, rowMatches_of _ _ ((mask_encReg ..).trans (by decide))⟩

end Sys2Proof.Laws.TableRow
end

