-- ==== Sys2Proof/Tests/Slice0.lean ====
section
/-! SUPPORT. The model's own tests, and a witness for every obligation that has hypotheses. The expected results of the
step tests are rows of spec/95_test_vectors.md, named by their ids; the words of the decode tests are written out bit by
bit from the formats of spec/30_encoding.md R62. -/

namespace Sys2Proof.Machine.Tests

/-! ### Helpers -/

/-- The state after Reset with some registers set. -/
def withRegs (rs : List (Nibble × Byte)) : State := rs.foldl (fun s r => s.setV r.1 r.2) State.reset

/-- One step of `s` with the word `w` at its `pc` answers exactly what `f` makes of that state. -/
abbrev StepGives (w : Word) (s : State) (f : State → State) : Prop := step (placeWord w s) = .next (f (placeWord w s))

/-- The answer is a next state with this property. -/
def answers (r : Result) (p : State → Bool) : Bool :=
  match r with
  | .next t => p t
  | _ => false

/-- A framebuffer with one row of 64 cells set, bit `x` for column `x`, and the rest false. -/
def fbRow (y : Fin 32) (cells : BitVec 64) : Framebuffer := (Vector.replicate 32 0#64).set y.val cells y.isLt

/-- The keypad with these keys pressed. -/
def keysDown (ks : List Nibble) : Vector Bool 16 := Vector.ofFn fun k => decide (BitVec.ofNat 4 k.val ∈ ks)

/-- The default parameters but for `TIMER_MODE = PerStep`. -/
def perStepCfg : Config := { Config.default with timerMode := .perStep }

/-- A state faulted by 00EE with an empty stack. -/
def faulted : State :=
  { State.reset with
    mode := .halted, faultCode := .stackUnderflow, faultPc := 0x200, faultOpcode := 0x00EE
    mem := [(0x200, 0x00), (0x201, 0xEE)] }

/-! ### Well-formedness (R61, R64, R72, R182): each check refuses an ill-formed term -/

theorem test_wellFormed_reg : Operand.wellFormed (.reg 16) = false ∧ Operand.wellFormed (.reg 15) = true := by decide
theorem test_wellFormed_byte : Operand.wellFormed (.byte 256) = false ∧ Operand.wellFormed (.byte 255) = true := by decide
theorem test_wellFormed_nibble : Operand.wellFormed (.nibble 16) = false ∧ Operand.wellFormed (.nibble 15) = true := by decide
theorem test_wellFormed_addr : Operand.wellFormed (.addr 4096) = false ∧ Operand.wellFormed (.addr 4095) = true := by decide
theorem test_wellFormed_instr :
    Instr.wellFormed (.drw 15 15 15) = true ∧ [Operand.reg 3, .byte 256].all Operand.wellFormed = false := by decide
theorem test_wellFormed_program : programWellFormed (List.replicate 3585 0#8) = false ∧
    programWellFormed (List.replicate 3584 0#8) = true ∧ programWellFormed [] = true := by
  simp only [programWellFormed, maxProgram, List.length_replicate, List.length_nil]; decide

/-! ### Decoding (R62, R65, R68): one word of every row, in its format's bits -/

theorem test_decode_cls :
    decode 0b0000000011100000#16 = .ok (.cls) ∧ encode (.cls) = 0b0000000011100000#16 := by decide
theorem test_decode_ret :
    decode 0b0000000011101110#16 = .ok (.ret) ∧ encode (.ret) = 0b0000000011101110#16 := by decide
theorem test_decode_jp :
    decode 0b0001101010111100#16 = .ok (.jp 0xABC) ∧ encode (.jp 0xABC) = 0b0001101010111100#16 := by decide
theorem test_decode_call :
    decode 0b0010001000010000#16 = .ok (.call 0x210) ∧ encode (.call 0x210) = 0b0010001000010000#16 := by decide
theorem test_decode_seImm :
    decode 0b0011001101000010#16 = .ok (.seImm 3 0x42) ∧ encode (.seImm 3 0x42) = 0b0011001101000010#16 := by decide
theorem test_decode_sneImm :
    decode 0b0100001101000010#16 = .ok (.sneImm 3 0x42) ∧ encode (.sneImm 3 0x42) = 0b0100001101000010#16 := by decide
theorem test_decode_seReg :
    decode 0b0101000100100000#16 = .ok (.seReg 1 2) ∧ encode (.seReg 1 2) = 0b0101000100100000#16 := by decide
theorem test_decode_sneReg :
    decode 0b1001000100100000#16 = .ok (.sneReg 1 2) ∧ encode (.sneReg 1 2) = 0b1001000100100000#16 := by decide
theorem test_decode_jpV0 :
    decode 0b1011001100000000#16 = .ok (.jpV0 0x300) ∧ encode (.jpV0 0x300) = 0b1011001100000000#16 := by decide
theorem test_decode_ldImm :
    decode 0b0110101001111011#16 = .ok (.ldImm 0xA 0x7B) ∧ encode (.ldImm 0xA 0x7B) = 0b0110101001111011#16 := by decide
theorem test_decode_addImm :
    decode 0b0111000000000010#16 = .ok (.addImm 0 2) ∧ encode (.addImm 0 2) = 0b0111000000000010#16 := by decide
theorem test_decode_ldReg :
    decode 0b1000001011110000#16 = .ok (.ldReg 2 0xF) ∧ encode (.ldReg 2 0xF) = 0b1000001011110000#16 := by decide
theorem test_decode_orReg :
    decode 0b1000000100100001#16 = .ok (.orReg 1 2) ∧ encode (.orReg 1 2) = 0b1000000100100001#16 := by decide
theorem test_decode_andReg :
    decode 0b1000000100100010#16 = .ok (.andReg 1 2) ∧ encode (.andReg 1 2) = 0b1000000100100010#16 := by decide
theorem test_decode_xorReg :
    decode 0b1000000100100011#16 = .ok (.xorReg 1 2) ∧ encode (.xorReg 1 2) = 0b1000000100100011#16 := by decide
theorem test_decode_addReg :
    decode 0b1000001100010100#16 = .ok (.addReg 3 1) ∧ encode (.addReg 3 1) = 0b1000001100010100#16 := by decide
theorem test_decode_sub :
    decode 0b1000000100100101#16 = .ok (.sub 1 2) ∧ encode (.sub 1 2) = 0b1000000100100101#16 := by decide
theorem test_decode_shr :
    decode 0b1000000001010110#16 = .ok (.shr 0 5) ∧ encode (.shr 0 5) = 0b1000000001010110#16 := by decide
theorem test_decode_subn :
    decode 0b1000010001110111#16 = .ok (.subn 4 7) ∧ encode (.subn 4 7) = 0b1000010001110111#16 := by decide
theorem test_decode_shl :
    decode 0b1000100100011110#16 = .ok (.shl 9 1) ∧ encode (.shl 9 1) = 0b1000100100011110#16 := by decide
theorem test_decode_rnd :
    decode 0b1100001100001111#16 = .ok (.rnd 3 0x0F) ∧ encode (.rnd 3 0x0F) = 0b1100001100001111#16 := by decide
theorem test_decode_ldI :
    decode 0b1010001100000000#16 = .ok (.ldI 0x300) ∧ encode (.ldI 0x300) = 0b1010001100000000#16 := by decide
theorem test_decode_addIVx :
    decode 0b1111100000011110#16 = .ok (.addIVx 8) ∧ encode (.addIVx 8) = 0b1111100000011110#16 := by decide
theorem test_decode_ldFVx :
    decode 0b1111000100101001#16 = .ok (.ldFVx 1) ∧ encode (.ldFVx 1) = 0b1111000100101001#16 := by decide
theorem test_decode_ldBVx :
    decode 0b1111101000110011#16 = .ok (.ldBVx 0xA) ∧ encode (.ldBVx 0xA) = 0b1111101000110011#16 := by decide
theorem test_decode_ldMemVx :
    decode 0b1111001001010101#16 = .ok (.ldMemVx 2) ∧ encode (.ldMemVx 2) = 0b1111001001010101#16 := by decide
theorem test_decode_ldVxMem :
    decode 0b1111001001100101#16 = .ok (.ldVxMem 2) ∧ encode (.ldVxMem 2) = 0b1111001001100101#16 := by decide
theorem test_decode_drw :
    decode 0b1101000000010101#16 = .ok (.drw 0 1 5) ∧ encode (.drw 0 1 5) = 0b1101000000010101#16 := by decide
theorem test_decode_skp :
    decode 0b1110010110011110#16 = .ok (.skp 5) ∧ encode (.skp 5) = 0b1110010110011110#16 := by decide
theorem test_decode_sknp :
    decode 0b1110010110100001#16 = .ok (.sknp 5) ∧ encode (.sknp 5) = 0b1110010110100001#16 := by decide
theorem test_decode_ldVxDt :
    decode 0b1111000100000111#16 = .ok (.ldVxDt 1) ∧ encode (.ldVxDt 1) = 0b1111000100000111#16 := by decide
theorem test_decode_ldVxK :
    decode 0b1111010100001010#16 = .ok (.ldVxK 5) ∧ encode (.ldVxK 5) = 0b1111010100001010#16 := by decide
theorem test_decode_ldDtVx :
    decode 0b1111110000010101#16 = .ok (.ldDtVx 0xC) ∧ encode (.ldDtVx 0xC) = 0b1111110000010101#16 := by decide
theorem test_decode_ldStVx :
    decode 0b1111001000011000#16 = .ok (.ldStVx 2) ∧ encode (.ldStVx 2) = 0b1111001000011000#16 := by decide
theorem test_decode_invalid : decode 0x01E0 = .error .zero ∧ decode 0x5121 = .error .five ∧ decode 0x8008 = .error .eight ∧
    decode 0x9AB3 = .error .nine ∧ decode 0xE000 = .error .e ∧ decode 0xF0FF = .error .f := by decide
theorem test_decodeBytes : decodeBytes [0x12, 0x34, 0x56] = .ok (.jp 0x234, [0x56]) ∧
    decodeBytes [0x12] = .error .truncated ∧ decodeBytes [0xFF, 0xFF] = .error (.invalid .f) := by decide
theorem test_decodeTableWord : decodeTableWord 16 0xD125 = some (.drw 1 2 5) ∧ decodeTableWord 16 0x5121 = none := by decide
/-- The first items of program P3, through R73's listing form. -/
theorem test_assemble : assemble [.instr (.ldI 0x210), .instr (.drw 0 1 2), .dw 0x0000, .db [0xDB, 0xC3]]
    = [0xA2, 0x10, 0xD0, 0x12, 0x00, 0x00, 0xDB, 0xC3] := by decide

/-! ### The step, INVALID words and Halted (S rows) -/

/-- S7. -/
theorem test_invalid_wraps : StepGives 0xFFFF
    { State.reset with pc := 0xFFE }
    (fun s => { s with pc := 0, invSeen := true, invOpcode := 0xFFFF, invPc := 0xFFE }) := rfl
/-- S8. -/
theorem test_fetch_wraps : StepGives 0x1234
    { State.reset with pc := 0xFFF }
    (fun s => { s with pc := 0x234 }) := rfl
/-- S9. -/
theorem test_halted_step : applyEvent .step
    { faulted with dt := 5, cfg := perStepCfg }
    = .next { faulted with dt := 5, cfg := perStepCfg } := rfl
/-- S10. -/
theorem test_perStep_invalid : StepGives 0x0000
    { State.reset with cfg := perStepCfg, dt := 5 }
    (fun s => { s with pc := 0x202, dt := 4, invSeen := true, invOpcode := 0, invPc := 0x200 }) := rfl
/-- S11. -/
theorem test_perStep_fault : StepGives 0x00EE
    { State.reset with cfg := perStepCfg, dt := 5 }
    (fun s => { s with mode := .halted, faultCode := .stackUnderflow, faultPc := 0x200, faultOpcode := 0x00EE }) := rfl
/-- S12. -/
theorem test_decoupled_step : StepGives 0x6000
    { State.reset with dt := 5, st := 3 }
    (fun s => { s with pc := 0x202 }) := rfl

/-! ### Control transfer and skips (CF rows) -/

/-- CF1. -/
theorem test_ret : StepGives 0x00EE
    { State.reset with pc := 0x212, sp := 1, stack := State.reset.stack.set 0 0x206 }
    (fun s => { s with pc := 0x206, sp := 0 }) := rfl
/-- CF2. -/
theorem test_ret_underflow : StepGives 0x00EE
    State.reset
    (fun s => { s with mode := .halted, faultCode := .stackUnderflow, faultPc := 0x200, faultOpcode := 0x00EE }) := rfl
/-- CF3. -/
theorem test_jp : StepGives 0x1ABC
    { State.reset with sp := 2 }
    (fun s => { s with pc := 0xABC }) := rfl
/-- CF7. -/
theorem test_call_wraps : StepGives 0x2400
    { State.reset with pc := 0xFFE, sp := 3, stack := Vector.replicate 16 0xABC }
    (fun s => { s with pc := 0x400, sp := 4, stack := (Vector.replicate 16 0xABC).set 3 0 }) := rfl
/-- CF6. -/
theorem test_call_overflow : StepGives 0x2ABC
    { State.reset with sp := 16 }
    (fun s => { s with mode := .halted, faultCode := .stackOverflow, faultPc := 0x200, faultOpcode := 0x2ABC }) := rfl
/-- CF11. -/
theorem test_seImm : StepGives 0x3F07
    { withRegs [(0xF, 7)] with pc := 0xFFE }
    (fun s => { s with pc := 0x002 }) := rfl
/-- CF10. -/
theorem test_seImm_not : StepGives 0x3342
    { withRegs [(3, 0x41)] with pc := 0x300 }
    (fun s => { s with pc := 0x302 }) := rfl
/-- CF13. -/
theorem test_sneImm : StepGives 0x4342
    { State.reset with pc := 0x300 }
    (fun s => { s with pc := 0x304 }) := rfl
/-- CF12. -/
theorem test_sneImm_not : StepGives 0x4342
    { withRegs [(3, 0x42)] with pc := 0x300 }
    (fun s => { s with pc := 0x302 }) := rfl
/-- CF14. -/
theorem test_seReg : StepGives 0x5120
    (withRegs [(1, 5), (2, 5)])
    (fun s => { s with pc := 0x204 }) := rfl
/-- CF15. -/
theorem test_seReg_not : StepGives 0x5120
    (withRegs [(1, 5), (2, 6)])
    (fun s => { s with pc := 0x202 }) := rfl
/-- CF17. -/
theorem test_sneReg : StepGives 0x9120
    (withRegs [(1, 5), (2, 6)])
    (fun s => { s with pc := 0x204 }) := rfl
/-- CF18. -/
theorem test_sneReg_not : StepGives 0x9120
    (withRegs [(1, 5), (2, 5)])
    (fun s => { s with pc := 0x202 }) := rfl
/-- CF21. -/
theorem test_jpV0 : StepGives 0xBFFF
    (withRegs [(0, 0xFF)])
    (fun s => { s with pc := 0x0FE }) := rfl
/-- CF22. -/
theorem test_jpV0_not_vx : StepGives 0xB200
    (withRegs [(0, 1), (1, 0x80), (2, 0x40)])
    (fun s => { s with pc := 0x201 }) := rfl

/-! ### Register loads and arithmetic (A rows) -/

/-- A1. -/
theorem test_ldImm : StepGives 0x6A7B
    (withRegs [])
    (fun s => { s with pc := 0x202, v := (withRegs [(0xA, 0x7B)]).v }) := rfl
/-- A2. -/
theorem test_ldImm_vf : StepGives 0x6F00
    (withRegs [(0xF, 1)])
    (fun s => { s with pc := 0x202, v := (withRegs [(0xF, 0)]).v }) := rfl
/-- A3. -/
theorem test_addImm : StepGives 0x7002
    (withRegs [(0, 0xFF), (0xF, 0x55)])
    (fun s => { s with pc := 0x202, v := (withRegs [(0, 1), (0xF, 0x55)]).v }) := rfl
/-- A4. -/
theorem test_addImm_vf : StepGives 0x7F03
    (withRegs [(0xF, 0xFE)])
    (fun s => { s with pc := 0x202, v := (withRegs [(0xF, 1)]).v }) := rfl
/-- A5. -/
theorem test_ldReg : StepGives 0x82F0
    (withRegs [(0xF, 1)])
    (fun s => { s with pc := 0x202, v := (withRegs [(0xF, 1), (2, 1)]).v }) := rfl
/-- A6. -/
theorem test_orReg : StepGives 0x8121
    (withRegs [(1, 0xF0), (2, 0x0F), (0xF, 0x55)])
    (fun s => { s with pc := 0x202, v := (withRegs [(1, 0xFF), (2, 0x0F), (0xF, 0x55)]).v }) := rfl
/-- A7. -/
theorem test_andReg : StepGives 0x8122
    (withRegs [(1, 0xF0), (2, 0x3C), (0xF, 0x55)])
    (fun s => { s with pc := 0x202, v := (withRegs [(1, 0x30), (2, 0x3C), (0xF, 0x55)]).v }) := rfl
/-- A8. -/
theorem test_xorReg : StepGives 0x8123
    (withRegs [(1, 0xF0), (2, 0x3C), (0xF, 0x55)])
    (fun s => { s with pc := 0x202, v := (withRegs [(1, 0xCC), (2, 0x3C), (0xF, 0x55)]).v }) := rfl
/-- A10. -/
theorem test_addReg : StepGives 0x8014
    (withRegs [(0, 0xFF), (1, 1)])
    (fun s => { s with pc := 0x202, v := (withRegs [(0, 0), (1, 1), (0xF, 1)]).v }) := rfl
/-- A14. -/
theorem test_addReg_vf : StepGives 0x8F14
    (withRegs [(0xF, 0x10), (1, 1)])
    (fun s => { s with pc := 0x202, v := (withRegs [(0xF, 0), (1, 1)]).v }) := rfl
/-- A17. -/
theorem test_sub : StepGives 0x8015
    (withRegs [(0, 1), (1, 2)])
    (fun s => { s with pc := 0x202, v := (withRegs [(0, 0xFF), (1, 2), (0xF, 0)]).v }) := rfl
/-- A20. -/
theorem test_sub_vf : StepGives 0x8F15
    (withRegs [(0xF, 5), (1, 3)])
    (fun s => { s with pc := 0x202, v := (withRegs [(0xF, 1), (1, 3)]).v }) := rfl
/-- A23. -/
theorem test_shr : StepGives 0x8056
    (withRegs [(0, 3), (5, 0x80)])
    (fun s => { s with pc := 0x202, v := (withRegs [(0, 1), (5, 0x80), (0xF, 1)]).v }) := rfl
/-- A22. -/
theorem test_shr_clears : StepGives 0x8006
    (withRegs [(0, 0xFE), (0xF, 1)])
    (fun s => { s with pc := 0x202, v := (withRegs [(0, 0x7F), (0xF, 0)]).v }) := rfl
/-- A25. -/
theorem test_subn : StepGives 0x8017
    (withRegs [(0, 5), (1, 3)])
    (fun s => { s with pc := 0x202, v := (withRegs [(0, 0xFE), (1, 3), (0xF, 0)]).v }) := rfl
/-- A27. -/
theorem test_subn_same : StepGives 0x8447
    (withRegs [(4, 0x33)])
    (fun s => { s with pc := 0x202, v := (withRegs [(4, 0), (0xF, 1)]).v }) := rfl
/-- A29. -/
theorem test_shl_clears : StepGives 0x800E
    (withRegs [(0, 0x40), (0xF, 1)])
    (fun s => { s with pc := 0x202, v := (withRegs [(0, 0x80), (0xF, 0)]).v }) := rfl
/-- A31. -/
theorem test_shl_vf : StepGives 0x8FFE
    (withRegs [(0xF, 0x81)])
    (fun s => { s with pc := 0x202, v := (withRegs [(0xF, 1)]).v }) := rfl
/-- A32. -/
theorem test_rnd : StepGives 0xC30F
    { withRegs [] with rnd := [0xA5] }
    (fun s => { s with pc := 0x202, v := (withRegs [(3, 5)]).v, rnd := [] }) := rfl
/-- A34. -/
theorem test_rnd_all : StepGives 0xC3FF
    { withRegs [] with rnd := [0x3C, 0xA5] }
    (fun s => { s with pc := 0x202, v := (withRegs [(3, 0x3C)]).v, rnd := [0xA5] }) := rfl

/-! ### The index register and memory (M rows) -/

/-- M1. -/
theorem test_ldI : StepGives 0xA300
    State.reset
    (fun s => { s with pc := 0x202, i := 0x300 }) := rfl
/-- M4. -/
theorem test_addIVx : StepGives 0xF01E
    { withRegs [(0, 0xFF)] with i := 0xF80 }
    (fun s => { s with pc := 0x202, v := (withRegs [(0, 0xFF), (0xF, 1)]).v, i := 0x07F }) := rfl
/-- M5. -/
theorem test_addIVx_vf : StepGives 0xFF1E
    { withRegs [(0xF, 2)] with i := 0xFFF }
    (fun s => { s with pc := 0x202, v := (withRegs [(0xF, 1)]).v, i := 1 }) := rfl
/-- M6. -/
theorem test_ldFVx : StepGives 0xF029
    (withRegs [(0, 0x0A)])
    (fun s => { s with pc := 0x202, i := 0x032 }) := rfl
/-- M8. -/
theorem test_ldFVx_unmasked : StepGives 0xF029
    (withRegs [(0, 0xFF)])
    (fun s => { s with pc := 0x202, i := 0x4FB }) := rfl
/-- M10. -/
theorem test_ldBVx : StepGives 0xF033
    { withRegs [(0, 0xFF)] with i := 0x300 }
    (fun s => { s with pc := 0x202, mem := [(0x200, 0xF0), (0x201, 0x33), (0x300, 2), (0x301, 5), (0x302, 5)] }) := rfl
/-- M13. -/
theorem test_ldBVx_fault : StepGives 0xF033
    { withRegs [(0, 9)] with i := 0xFFE }
    (fun s => { s with mode := .halted, faultCode := .addressOutOfRange, faultPc := 0x200, faultOpcode := 0xF033 }) := rfl
/-- M14. -/
theorem test_ldMemVx : StepGives 0xF255
    { withRegs [(0, 1), (1, 2), (2, 3), (3, 4)] with i := 0x400 }
    (fun s => { s with pc := 0x202, mem := [(0x200, 0xF2), (0x201, 0x55), (0x400, 1), (0x401, 2), (0x402, 3)] }) := rfl
/-- M17. -/
theorem test_ldMemVx_fault : StepGives 0xFF55
    { State.reset with i := 0xFF1 }
    (fun s => { s with mode := .halted, faultCode := .addressOutOfRange, faultPc := 0x200, faultOpcode := 0xFF55 }) := rfl
/-- M18. -/
theorem test_ldVxMem : StepGives 0xF265
    { withRegs [(3, 0x77)] with i := 0x300, mem := [(0x300, 1), (0x301, 2), (0x302, 3), (0x303, 4)] }
    (fun s => { s with pc := 0x202, v := (withRegs [(0, 1), (1, 2), (2, 3), (3, 0x77)]).v }) := rfl
/-- M19. -/
theorem test_ldVxMem_font : StepGives 0xFF65
    { State.reset with i := 0x000 }
    (fun s => { s with pc := 0x202, v := #v[0xF0, 0x90, 0x90, 0x90, 0xF0, 0x20, 0x60, 0x20, 0x20, 0x70, 0xF0, 0x10, 0xF0, 0x80, 0xF0, 0xF0] }) := rfl

/-- 20_memory.md R49 and log 1: writing the byte an unlisted address reads as removes its entry, so that equal memories
are equal lists. -/
theorem test_memory_canonical : Memory.write (Memory.write [] 0x000 0xAA) 0x1000 0xF0 = [] ∧
    Memory.write (Memory.write [] 0x300 1) 0x050 2 = [(0x050, 2), (0x300, 1)] ∧
    Memory.wf [(0x050, 2), (0x300, 1)] = true ∧ Memory.wf [(0x300, 1), (0x050, 2)] = false ∧
    Memory.wf [(0x000, 0xF0)] = false := by decide

/-! ### The framebuffer (D rows) -/

/-- D1. -/
theorem test_cls : StepGives 0x00E0
    { State.reset with fb := (fbRow 0 1).set 31 0x8000000000000000 }
    (fun s => { s with pc := 0x202, fb := fbRow 0 0, redraw := true }) := rfl
/-- D2. -/
theorem test_cls_redraw : StepGives 0x00E0
    { State.reset with redraw := true }
    (fun s => { s with pc := 0x202 }) := rfl
/-- D6. -/
theorem test_drw_xwrap : StepGives 0xD011
    { withRegs [(0, 62)] with i := 0x300, mem := [(0x300, 0xFF)] }
    (fun s => { s with pc := 0x202, v := (withRegs [(0, 62), (0xF, 0)]).v, redraw := true, fb := fbRow 0 0xC00000000000003F }) := rfl
/-- D5, on row 1 as well through the read wrap of D11. -/
theorem test_drw_collision : StepGives 0xD012
    { withRegs [] with i := 0xFFF, fb := fbRow 0 0xC, mem := [(0xFFF, 0x30)] }
    (fun s => { s with pc := 0x202, v := (withRegs [(0xF, 1)]).v, redraw := true, fb := fbRow 1 0xF }) := rfl

/-! ### Keypad and timers (K and T rows) -/

/-- K1. -/
theorem test_skp : StepGives 0xE59E
    { withRegs [(5, 3)] with pc := 0x220, key := keysDown [3] }
    (fun s => { s with pc := 0x224 }) := rfl
/-- K5. -/
theorem test_skp_fault : StepGives 0xE59E
    { withRegs [(5, 0x10)] with pc := 0x220 }
    (fun s => { s with mode := .halted, faultCode := .keyIndexOutOfRange, faultPc := 0x220, faultOpcode := 0xE59E }) := rfl
/-- K3. -/
theorem test_sknp : StepGives 0xE5A1
    { withRegs [(5, 3)] with pc := 0x220, key := keysDown [2] }
    (fun s => { s with pc := 0x224 }) := rfl
/-- K6. -/
theorem test_sknp_fault : StepGives 0xE5A1
    { withRegs [(5, 0xFF)] with pc := 0x220 }
    (fun s => { s with mode := .halted, faultCode := .keyIndexOutOfRange, faultPc := 0x220, faultOpcode := 0xE5A1 }) := rfl
/-- K7. -/
theorem test_ldVxDt : StepGives 0xF107
    { State.reset with dt := 0x3C }
    (fun s => { s with pc := 0x202, v := (withRegs [(1, 0x3C)]).v }) := rfl
/-- K8. -/
theorem test_ldVxDt_perStep : StepGives 0xF107
    { State.reset with dt := 0x3C, cfg := perStepCfg }
    (fun s => { s with pc := 0x202, dt := 0x3B, v := (withRegs [(1, 0x3C)]).v }) := rfl
/-- K12. -/
theorem test_ldVxK_waits : StepGives 0xF00A
    { withRegs [(0, 0x55)] with dt := 2, cfg := perStepCfg }
    (fun s => { s with dt := 1, mode := .awaitingKey }) := rfl
/-- K10. -/
theorem test_ldVxK : StepGives 0xF00A
    { State.reset with key := keysDown [9, 3], mode := .awaitingKey }
    (fun s => { s with pc := 0x202, mode := .running, v := (withRegs [(0, 3)]).v }) := rfl
/-- K11. -/
theorem test_keyPick : StepGives 0xF50A
    { State.reset with key := keysDown [3, 9], keyPick := [9], cfg := { Config.default with keySelect := .any } }
    (fun s => { s with pc := 0x202, keyPick := [], v := (withRegs [(5, 9)]).v }) := rfl
/-- K13. -/
theorem test_ldDtVx : StepGives 0xF015
    (withRegs [(0, 0x3C)])
    (fun s => { s with pc := 0x202, dt := 0x3C }) := rfl
/-- K14. -/
theorem test_ldDtVx_perStep : StepGives 0xF015
    { withRegs [(0, 0x3C)] with cfg := perStepCfg }
    (fun s => { s with pc := 0x202, dt := 0x3B }) := rfl
/-- K15. -/
theorem test_ldStVx : StepGives 0xF218
    (withRegs [(2, 5)])
    (fun s => { s with pc := 0x202, st := 5 }) := rfl
/-- K17. -/
theorem test_ldStVx_onExpiry : StepGives 0xF218
    { withRegs [(2, 1)] with cfg := { perStepCfg with beepPolicy := .onExpiry } }
    (fun s => { s with pc := 0x202, st := 0, beep := true }) := rfl
/-- T1 and T5. -/
theorem test_tick_pinned : applyEvent .tick { State.reset with dt := 1 }
    = .next State.reset := rfl
/-- T3. -/
theorem test_tick_beep : applyEvent .tick { State.reset with st := 2 }
    = .next { State.reset with st := 1, beep := true } := rfl
/-- T6. -/
theorem test_tick_halted : applyEvent .tick { State.reset with mode := .halted, dt := 3 }
    = .next { State.reset with mode := .halted, dt := 2 } := rfl
/-- T7. -/
theorem test_tick_perStep : applyEvent .tick { State.reset with cfg := perStepCfg, dt := 3 }
    = .next { State.reset with cfg := perStepCfg, dt := 3 } := rfl
/-- T9. -/
theorem test_clearRedraw : applyEvent .hostClearRedraw { State.reset with redraw := true, beep := true }
    = .next { State.reset with beep := true } := rfl
/-- T10. -/
theorem test_hostKey : applyEvent (.hostKey 7 true) State.reset
    = .next { State.reset with key := keysDown [7] } := rfl
/-- T11 and T12. -/
theorem test_corestat :
    corestat { State.reset with mode := .halted, invSeen := true, faultCode := .addressOutOfRange } = 0x1E ∧
    corestat State.reset = 0 := by decide

/-! ### Reset and Load (R and L rows, E2) -/

set_option maxRecDepth 4000 in
/-- R-1. -/
theorem test_reset : applyEvent .reset { withRegs [(0, 0xFF), (0xF, 0xFF)] with
      i := 0x345, pc := 0x6A1, sp := 3, dt := 9, st := 9, fb := fbRow 0 0x20,
      redraw := true, beep := true, mode := .halted, faultCode := .addressOutOfRange, invSeen := true,
      mem := [(0x000, 0x00), (0x300, 0xAA)], key := keysDown [2] }
    = .next { State.reset with mem := [(0x300, 0xAA)], key := keysDown [2] } := rfl
/-- L-1. -/
theorem test_load : applyEvent (.load (.bytes [0x12, 0x34])) State.reset
    = .next { State.reset with mem := [(0x200, 0x12), (0x201, 0x34)], loadResult := some .ok } := rfl
/-- L-4. -/
theorem test_load_empty : applyEvent (.load (.bytes [])) State.reset
    = .next { State.reset with loadResult := some .ok } := rfl
/-- L-5. -/
theorem test_load_unreadable : applyEvent (.load .unreadable) State.reset
    = .next { State.reset with loadResult := some .loadFailure } := rfl
/-- E2: the step after the load fetches 0x1234. -/
theorem test_load_then_step : answers (runEvents [.reset, .load (.bytes [0x12, 0x34]), .step] State.reset)
    (fun t => decide (t.pc = 0x234)) = true := by decide
/-- The next event of the agenda is taken before a step. -/
theorem test_agenda : answers (step { State.reset with agenda := [.hostKey 1 true, .step] })
    (fun t => decide (t.agenda = [.step] ∧ t.pc = 0x200 ∧ t.keyDown 1 = true)) = true := by decide
/-- I23 and log 9: a Step after a failed Load stops by name. -/
theorem test_step_after_failed_load :
    applyEvent .step { State.reset with loadResult := some .loadFailure } = .fault .stepAfterFailedLoad := rfl


/-! ### Witnesses: the hypotheses of the obligations, met together, clause by clause, at the ends of their ranges -/

/-- A state about to run the word `w` at 0x200. -/
def ready (w : Word) : State := placeWord w State.reset

theorem faulted_is_reached : step (ready 0x00EE) = .next faulted := rfl

theorem ready_readyToStep (w : Word) : (ready w).ReadyToStep :=
  ⟨rfl, show Mode.running ≠ Mode.halted by decide, .inl rfl⟩

theorem placeWord_inv_1200 : (ready 0x1200).Inv :=
  ⟨by decide, by decide, by decide, by decide, by decide, by decide, by decide, by decide, by decide, by decide, by decide⟩

theorem faulted_inv : faulted.Inv :=
  ⟨by decide, by decide, by decide, by decide, by decide, by decide, by decide, by decide, by decide, by decide, by decide⟩

theorem reset_inv : State.reset.Inv :=
  ⟨by decide, by decide, by decide, by decide, by decide, by decide, by decide, by decide, by decide, by decide, by decide⟩

/-- O3, O4, O5: a state with the invariant and a step, and a faulted one under a host event. -/
theorem witness_EveryStepKeepsInvariant :
    (ready 0x1200).Inv ∧ step (ready 0x1200) = .next (ready 0x1200) ∧ faulted.Inv ∧ step faulted = .next faulted :=
  ⟨placeWord_inv_1200, rfl, faulted_inv, rfl⟩
theorem witness_FaultConditionStandsUntilReset :
    faulted.Inv ∧ faulted.FaultStands ∧
      step { faulted with agenda := [.tick] } = .next { faulted with agenda := [] } ∧ (ready 0x00EE).FaultStands :=
  ⟨faulted_inv, ⟨rfl, rfl⟩, rfl, trivial⟩

theorem witness_EncodeOfDecode : decode 0x8126 = .ok (.shr 1 2) ∧ decode 0xFFFF = .error .f := by decide
/-- Both sides of each class, at the ends of its ranges. -/
theorem witness_InvalidClassesOfWords :
    isInvalid 0x0000 = true ∧ isInvalid 0x00E0 = false ∧ isInvalid 0x00EE = false ∧ isInvalid 0x0FFF = true ∧
    isInvalid 0x5FF0 = false ∧ isInvalid 0x5FF1 = true ∧ isInvalid 0x5FFF = true ∧
    isInvalid 0x8007 = false ∧ isInvalid 0x8008 = true ∧ isInvalid 0x800D = true ∧ isInvalid 0x800E = false ∧
    isInvalid 0x800F = true ∧ isInvalid 0x9000 = false ∧ isInvalid 0x900F = true ∧
    isInvalid 0xE09D = true ∧ isInvalid 0xE09E = false ∧ isInvalid 0xE0A0 = true ∧ isInvalid 0xE0A1 = false ∧
    isInvalid 0xF006 = true ∧ isInvalid 0xF007 = false ∧ isInvalid 0xFF65 = false ∧ isInvalid 0xFF66 = true := by decide
theorem witness_DecodeFollowsOpcodeTable :
    (opcodeRows.filter (rowMatches · 0xF533)).map (·.mnemonic) = ["LD_B_VX"] ∧
    opcodeRows.filter (rowMatches · 0x5121) = [] ∧ opcodeRows.length = 34 := by decide

theorem witness_MemoryPrimitives : (0xFFF : Nat) % 4096 ≠ 0x1000 % 4096 ∧
    Memory.read (Memory.write [] 0xFFF 0xAB) 0x1000 = 0xF0 := by decide
theorem witness_FetchBigEndianNeverFaults :
    (ready 0x1200).ReadyToStep ∧ fetch (placeWord 0x1234 { State.reset with pc := 0xFFF }) = 0x1234 :=
  ⟨ready_readyToStep _, rfl⟩
/-- The last pair of bytes in range: I + X = 0xFFF and k = X - 1. -/
theorem witness_StoredBytesAreFetched :
    ∃ t, ({ ready 0 with i := 0xFF0 } : State).i.toNat + (0xF#4).toNat ≤ 0xFFF ∧ 14 < (0xF#4).toNat ∧
      exec (.ldMemVx 0xF) { ready 0 with i := 0xFF0 } = .next t :=
  ⟨_, by decide, by decide, rfl⟩

theorem witness_StepRunsDecodedInstruction :
    (ready 0x6A7B).ReadyToStep ∧ decode (fetch (ready 0x6A7B)) = .ok (.ldImm 0xA 0x7B) :=
  ⟨ready_readyToStep _, by decide⟩
/-- A state of each timer mode, in which the two halves of the timer phase differ. -/
theorem witness_StepRunsDecodedInstruction_timers :
    (ready 0).cfg.timerMode = .decoupled ∧ ({ ready 0 with cfg := perStepCfg } : State).cfg.timerMode = .perStep ∧
    (timerPhase { ready 0 with dt := 1 }).dt = 1 ∧ (timerPhase { ready 0 with cfg := perStepCfg, dt := 1 }).dt = 0 := by
  decide
theorem witness_InvalidWordReported :
    (ready 0x5121).ReadyToStep ∧ isInvalid (fetch (ready 0x5121)) = true ∧ (ready 0x5121).cfg.timerMode = .decoupled ∧
    ∃ t, applyEvent .tick { ready 0 with invSeen := true } = .next t :=
  ⟨ready_readyToStep _, by decide, rfl, _, rfl⟩
theorem witness_HaltedUntilReset : faulted.mode = .halted ∧ ∃ t, applyEvent (.load (.bytes [0])) faulted = .next t :=
  ⟨rfl, _, rfl⟩
/-- The first value of each condition that faults, and the last that does not. -/
theorem witness_FaultTable :
    faultOf (.call 0) { ready 0 with sp := 16 } = .stackOverflow ∧ faultOf (.call 0) { ready 0 with sp := 15 } = .none ∧
    faultOf .ret { ready 0 with sp := 0 } = .stackUnderflow ∧ faultOf .ret { ready 0 with sp := 1 } = .none ∧
    faultOf (.ldBVx 0) { ready 0 with i := 0xFFE } = .addressOutOfRange ∧
    faultOf (.ldBVx 0) { ready 0 with i := 0xFFD } = .none ∧
    faultOf (.ldMemVx 1) { ready 0 with i := 0xFFF } = .addressOutOfRange ∧
    faultOf (.ldVxMem 0) { ready 0 with i := 0xFFF } = .none ∧
    faultOf (.skp 5) ((ready 0).setV 5 0x10) = .keyIndexOutOfRange ∧ faultOf (.sknp 5) ((ready 0).setV 5 0xF) = .none := by
  decide
theorem witness_FaultTable_completes : faultOf (.jp 0) (ready 0) = .none ∧ ∃ t, exec (.jp 0) (ready 0) = .next t :=
  ⟨rfl, _, rfl⟩
theorem witness_FaultEntryIsPrecise :
    (ready 0x00EE).ReadyToStep ∧ decode (fetch (ready 0x00EE)) = .ok .ret ∧ faultOf .ret (ready 0x00EE) ≠ .none :=
  ⟨ready_readyToStep _, by decide, by decide⟩

/-- The ends of the stack: 1 and 16 entries to return from, 0 and 15 to call with. -/
theorem witness_ReturnPopsAddress : ({ ready 0 with sp := 1 } : State).sp.val = 0 + 1 ∧
    ({ ready 0 with sp := 16 } : State).sp.val = 15 + 1 ∧ (ready 0).sp.val = 0 := by decide
theorem witness_CallPushesReturnAddress : (ready 0).sp.val = 0 ∧ ({ ready 0 with sp := 15 } : State).sp.val = 15 ∧
    ({ ready 0 with sp := 16 } : State).sp.val = 16 := by decide
theorem witness_CallThenReturn : ({ ready 0 with sp := 15 } : State).sp.val < 16 := by decide
theorem witness_SkipsOnRegisters : (0x1#4 : Nibble) ≠ 0#4 ∧ (0xF#4 : Nibble) ≠ 0#4 := by decide
theorem witness_RandomAndImmediate : ({ ready 0 with rnd := [0xA5] } : State).rnd.head? = some 0xA5 := by decide
/-- I at the last address in range and at the first past it. -/
theorem witness_StoreDecimalDigits : ({ ready 0 with i := 0xFFD } : State).i.toNat + 2 ≤ 0xFFF ∧
    ({ ready 0 with i := 0xFFE } : State).i.toNat + 2 > 0xFFF := by decide
theorem witness_StoreRegisters : ({ ready 0 with i := 0xFF0 } : State).i.toNat + (0xF#4).toNat ≤ 0xFFF ∧
    ({ ready 0 with i := 0xFF1 } : State).i.toNat + (0xF#4).toNat > 0xFFF := by decide
theorem witness_LoadRegisters : ({ ready 0 with i := 0xFFF } : State).i.toNat + (0x0#4).toNat ≤ 0xFFF ∧
    ({ ready 0 with i := 0xFFF } : State).i.toNat + (0x1#4).toNat > 0xFFF := by decide
theorem witness_StoreThenLoadRegisters :
    ∃ t u, ({ ready 0 with i := 0xFF0 } : State).i.toNat + (0xF#4).toNat ≤ 0xFFF ∧
      exec (.ldMemVx 0xF) { ready 0 with i := 0xFF0 } = .next t ∧
      exec (.ldVxMem 0xF) { t with v := Vector.replicate 16 7 } = .next u :=
  ⟨_, _, by decide, rfl, rfl⟩

/-- A state that draws the one-row sprite 0x80 at (63, 31), on a framebuffer with these rows. -/
def drawing (fb : Framebuffer) : State :=
  { withRegs [(0, 63), (1, 31)] with i := 0x300, mem := [(0x300, 0x80)], fb := fb }
/-- A lit bit on the last cell, set and unset before; and, with N = 0, no lit bit on any cell. -/
theorem witness_DrawSpriteByCells :
    litCell (drawing (fbRow 31 0x8000000000000000)) 0 1 1 2047 ∧
    (fbRow 31 0x8000000000000000).cell 2047 = true ∧ (fbRow 31 0).cell 2047 = false ∧
    ¬ litCell (drawing (fbRow 31 0)) 0 1 0 2047 :=
  ⟨⟨0, 0, by decide, by decide, by decide, by decide⟩, by decide, by decide,
    fun ⟨_, _, h, _⟩ => absurd h (Nat.not_lt_zero _)⟩
theorem witness_DrawTwiceRestores :
    ∃ t u, exec (.drw 0 1 1) (drawing (fbRow 31 0)) = .next t ∧
      exec (.drw 0 1 1) { t with v := (drawing (fbRow 31 0)).v } = .next u :=
  ⟨_, _, rfl, rfl⟩

theorem witness_SkipsOnKey : ((ready 0).getV 5).toNat = 0 ∧ (((ready 0).setV 5 0xF).getV 5).toNat = 15 ∧
    (((ready 0).setV 5 0x10).getV 5).toNat > 0xF := by decide
theorem witness_WaitForKey : (∀ k, (ready 0).keyDown k = false) ∧
    (∃ k, ({ ready 0 with key := keysDown [0xF] } : State).keyDown k = true) ∧
    (∀ j, ({ ready 0 with key := keysDown [0xF] } : State).keyDown j = true → (0xF#4).toNat ≤ j.toNat) ∧
    ({ ready 0 with key := keysDown [3, 9], keyPick := [9] } : State).keyPick.head? = some 9 ∧
    ({ ready 0 with key := keysDown [3, 9], keyPick := [9] } : State).keyDown 9 = true := by decide
theorem witness_TickByTimerMode : (ready 0).cfg.timerMode = .decoupled ∧
    ({ ready 0 with cfg := perStepCfg } : State).cfg.timerMode = .perStep := by decide
/-- A Step under PerStep that completes, and one that faults. -/
theorem witness_PerStepIsDecoupledThenDecrement :
    perStepCfg.timerMode = .perStep ∧
    (∃ t, stepEvent { ready 0x6A7B with cfg := perStepCfg, dt := 5 } = .next t ∧ t.mode ≠ .halted ∧ t.dt = 4) ∧
    (∃ u, stepEvent { ready 0x6A7B with dt := 5 } = .next u ∧ u.dt = 5) ∧
    (∃ t, stepEvent { ready 0x00EE with cfg := perStepCfg, dt := 5 } = .next t ∧ t.mode = .halted ∧ t.dt = 5) :=
  ⟨rfl, ⟨_, rfl, by decide, rfl⟩, ⟨_, rfl, rfl⟩, ⟨_, rfl, rfl, rfl⟩⟩
/-- A storing form at the top of memory, the address just below its bytes, and a form that stores nothing. -/
theorem witness_InstructionFrame :
    (∃ t, exec (.ldMemVx 0xF) { ready 0 with i := 0xFF0 } = .next t) ∧ 0xFEF < ({ ready 0 with i := 0xFF0 } : State).i.toNat ∧
    (∃ t, exec (.seImm 0 0) (ready 0) = .next t) ∧ (3 : Nibble) ∉ destRegs (.addReg 2 1) ∧
    faultOf (.seImm 0 0) (ready 0) = .none :=
  ⟨⟨_, rfl⟩, by decide, ⟨_, rfl⟩, by decide, rfl⟩
theorem witness_LoadEventEffects : ([] : List Byte).length ≤ 3584 ∧ (List.replicate 3584 0#8).length ≤ 3584 ∧
    (List.replicate 3585 0#8).length > 3584 := by
  simp only [List.length_replicate, List.length_nil]; decide
/-- A host that steps after a successful load keeps the contract; one that steps after a failed load does not. -/
theorem witness_ContractHostNeverStops :
    HostPhase.powerOn.keeps [.hostKey 1 true, .reset, .load (.bytes [0x12, 0x00]), .step, .tick, .reset] = true ∧
    HostPhase.powerOn.keeps [.reset, .load .unreadable, .step] = false ∧ HostPhase.powerOn.keeps [.step] = false := by decide
/-- Logs 21 and 22: what the contract takes where the spec leaves the phase open. -/
theorem test_contract_open_phases :
    HostPhase.powerOn.keeps [.writeStatus .corestat 0, .hostKey 1 true, .hostClearBeep, .reset, .tick, .load .unreadable, .tick]
      = true ∧
    HostPhase.powerOn.keeps [.tick] = false := by decide
theorem witness_ParkedStaysParked : (ready 0x1200).Inv ∧ (ready 0x1200).Parked ∧ (ready 0x1200).ReadyToStep :=
  ⟨placeWord_inv_1200, ⟨by decide, by decide⟩, ready_readyToStep _⟩


end Sys2Proof.Machine.Tests
end

/-! PROOFS. The memory primitives (spec/00_scope.md R15, spec/20_memory.md R49) and CXNN (spec/42_alu.md R111). -/

namespace Sys2Proof.Machine

/-! ### Memory -/

/-- Settles O12, from the laws of a read after a write: a read reduces its address modulo 4096 (`Memory.read_mod`), and a
write is seen at its own address and at no other. -/
theorem memoryPrimitives : Obligations.MemoryPrimitives := by
  intro m a a' b
  exact ⟨(Memory.read_mod m a).symm, rfl, Memory.read_write_same m a b, Memory.read_write_other m a a' b⟩

/-! ### The random byte (R17, log 4) -/

/-- A draw uses up the first byte the source has ready, and only that one. -/
@[simp] theorem drawRnd_rnd (s : State) : (drawRnd s).2.rnd = s.rnd.tail := by
  cases hr : s.rnd with
  | nil => simp [drawRnd, hr]
  | cons b rest => simp [drawRnd_ready s b rest hr]

/-- The byte drawn is the one the source has ready, when it has one. -/
theorem drawRnd_byte (s : State) (b : Byte) (h : s.rnd.head? = some b) : (drawRnd s).1 = b := by
  obtain ⟨rest, hr⟩ := List.head?_eq_some_iff.mp h
  rw [drawRnd_ready s b rest hr]

/-! ### CXNN -/

theorem decode_rnd (x : Nibble) (nn : Byte) : decode (encRegImm 0xC x nn) = .ok (.rnd x nn) := by
  simp [decode, fieldTop_encRegImm, fieldX_encRegImm, fieldNN_encRegImm]

/-- CXNN writes the drawn byte AND NN to `V[x]` in the state after the draw, which is `s` but for the source's record. -/
theorem exec_rnd (x : Nibble) (nn : Byte) (s : State) :
    exec (.rnd x nn) s = .next
      { s with v := (s.setV x ((drawRnd s).1 &&& nn)).v, pc := pcPlus s 2, mode := .running,
               rnd := s.rnd.tail, draws := (drawRnd s).2.draws } := by
  have hwrite : exec (.rnd x nn) s = writeReg x ((drawRnd s).1 &&& nn) (drawRnd s).2 := rfl
  rw [hwrite, drawRnd_frame, drawRnd_rnd]
  rfl

/-- Settles O35: the byte is the one drawn (`drawRnd`), whatever the source gives. -/
theorem randomAndImmediate : Obligations.RandomAndImmediate := by
  intro x nn
  refine ⟨decode_rnd x nn, fun s => ⟨_, (drawRnd s).1, exec_rnd x nn s, rfl, fun r => ?_, drawRnd_byte s⟩⟩
  exact (State.getV_setV s x r ((drawRnd s).1 &&& nn)).trans (by simp only [eq_comm])

end Sys2Proof.Machine

/-! PROOFS. What an instruction can do, said once (spec/10_state.md R21 to R35, spec/40_step.md R82 to R87,
spec/60_exceptions.md R150, R153): it takes the fault R150 gives it, or waits for a key, or completes, and then it writes
`V`, `pc`, `MODE` and at most one more group of components. The frame and the invariant follow from that. -/

namespace Sys2Proof.Machine

/-! ### The effect of an instruction -/

/-- What an instruction that completes may write beside `V`, `pc` and `MODE`, one constructor a group of components:
`I`, the stack, the display, a timer, memory, or the record of an input. -/
inductive Writes (s : State) : Instr → State → Prop
  | nothing {i : Instr} : Writes s i s
  | index {i : Instr} (n : Nat) (hi : (∃ a, i = .ldI a) ∨ (∃ x, i = .addIVx x) ∨ ∃ x, i = .ldFVx x) :
      Writes s i { s with i := wrap12 n }
  | pop : Writes s .ret s.drop
  | push {a : Addr} (n : Nat) (h : s.sp.val < 16) : Writes s (.call a) (s.push (wrap12 n) h)
  | display {i : Instr} (fb : Framebuffer) (redraw : Bool) (hi : i = .cls ∨ ∃ x y n, i = .drw x y n)
      (hr : s.redraw = true → redraw = true) : Writes s i { s with fb := fb, redraw := redraw }
  | delay (x : Nibble) : Writes s (.ldDtVx x) { s with dt := s.getV x }
  | sound (x : Nibble) : Writes s (.ldStVx x) { s with st := s.getV x }
  | store {i : Instr} (bs : List Byte) (hl : bs.length = storeBytes i) (hfit : s.i.toNat + bs.length ≤ 4096) :
      Writes s i { s with mem := Memory.writeBytes s.mem s.i.toNat bs }
  | random {x : Nibble} {nn : Byte} (rnd : List Byte) (draws : Nat) :
      Writes s (.rnd x nn) { s with rnd := rnd, draws := draws }
  | pick {x : Nibble} (keyPick : List Nibble) (draws : Nat) :
      Writes s (.ldVxK x) { s with keyPick := keyPick, draws := draws }

/-- The registers but for the destinations of R21 hold what they held. -/
def KeepsRegs (i : Instr) (s : State) (v : Vector Byte 16) : Prop := ∀ r, r ∉ destRegs i → v[r.toNat] = s.getV r

/-- The states an instruction can answer with. -/
inductive Effect (i : Instr) (s : State) : State → Prop
  | fault (hf : faultOf i s ≠ .none) :
      Effect i s { s with faultCode := faultOf i s, faultPc := s.pc, faultOpcode := encode i, mode := .halted }
  | wait {x : Nibble} (hi : i = .ldVxK x) : Effect i s { s with mode := .awaitingKey }
  | done (hf : faultOf i s = .none) {u : State} (hu : Writes s i u) {v : Vector Byte 16} (hv : KeepsRegs i s v)
      (n : Nat) : Effect i s { u with v := v, pc := wrap12 n, mode := .running }

/-! ### Registers kept -/

theorem keepsRegs_refl (i : Instr) (s : State) : KeepsRegs i s s.v := fun _ _ => rfl

theorem KeepsRegs.setV {i : Instr} {s u : State} {x : Nibble} (h : KeepsRegs i s u.v) (hx : x ∈ destRegs i) (b : Byte) :
    KeepsRegs i s (u.setV x b).v := fun r hr =>
  (State.getV_setV_other u x r b fun hrx => hr (hrx ▸ hx)).trans (h r hr)

theorem KeepsRegs.setFlag {i : Instr} {s u : State} (h : KeepsRegs i s u.v) (hf : 15#4 ∈ destRegs i) (c : Bool) :
    KeepsRegs i s (u.setFlag c).v := h.setV hf (flagByte c)

/-- FX65 writes the registers up to `X` only. -/
theorem keepsRegs_blockBytes (x : Nibble) (s : State) : KeepsRegs (.ldVxMem x) s (s.setBlock (blockBytes s x)).v := by
  intro r hr
  have hlen : (blockBytes s x).length = x.toNat + 1 := blockBytes_length s x
  have hout : ¬ r.toNat < (blockBytes s x).length := fun hlt =>
    hr (List.mem_map.mpr ⟨r.toNat, List.mem_range.mpr (by omega), regOfNat_toNat r⟩)
  exact (State.getV_setBlock s _ (by have := x.isLt; omega) r).trans (dif_neg hout)

/-! ### The ends of an instruction and their effects -/

section
variable {i : Instr} {s t : State}

theorem Effect.of_completeNext (hf : faultOf i s = .none) {u : State} (hu : Writes s i u) {v : Vector Byte 16}
    (hv : KeepsRegs i s v) (h : completeNext { u with v := v } = .next t) : Effect i s t := by
  obtain rfl := completeNext_next h
  exact .done hf hu hv _

theorem Effect.of_completeSkip (hf : faultOf i s = .none) {c : Bool} (h : completeSkip c s = .next t) :
    Effect i s t := by
  obtain rfl := completeSkip_next h
  exact .done hf .nothing (keepsRegs_refl i s) _

theorem Effect.of_jump (hf : faultOf i s = .none) {u : State} (hu : Writes s i u) (hv : KeepsRegs i s u.v) {n : Nat}
    (h : complete (u.setPc n) = .next t) : Effect i s t := by
  obtain rfl := complete_next h
  exact .done hf hu hv n

theorem Effect.of_writeReg (hf : faultOf i s = .none) {u : State} (hu : Writes s i u) (hv : KeepsRegs i s u.v) {x : Nibble}
    (hx : destRegs i = [x]) {b : Byte} (h : writeReg x b u = .next t) : Effect i s t :=
  .of_completeNext hf hu (hv.setV (by simp [hx]) b) h

theorem Effect.of_writeRegFlag (hf : faultOf i s = .none) {x : Nibble} (hx : destRegs i = [x, 15#4]) {b : Byte} {c : Bool}
    (h : writeRegFlag x b c s = .next t) : Effect i s t :=
  .of_completeNext hf .nothing (((keepsRegs_refl i s).setV (by simp [hx]) b).setFlag (by simp [hx]) c) h

/-- A fault entry with R150's code for the instruction. -/
theorem Effect.of_takeFault {code : FaultCode} (hf : faultOf i s = code) (hcode : code ≠ .none)
    (h : takeFault code (encode i) s = .next t) : Effect i s t := by
  obtain rfl := takeFault_next h
  subst hf
  exact .fault hcode

/-- An arm that tests R150's condition `p` for the instruction. -/
theorem Effect.of_guard {p : Prop} [Decidable p] {code : FaultCode} {r : Result}
    (hfault : faultOf i s = if p then code else .none) (hcode : code ≠ .none)
    (hr : ¬ p → faultOf i s = .none → r = .next t → Effect i s t)
    (h : (if decide p then takeFault code (encode i) s else r) = .next t) : Effect i s t := by
  by_cases hp : p
  · rw [if_pos (decide_eq_true hp)] at h
    exact .of_takeFault (hfault.trans (if_pos hp)) hcode h
  · rw [if_neg (by simpa using hp)] at h
    exact hr hp (hfault.trans (if_neg hp)) h

end

/-! ### Every instruction has such an effect -/

theorem ret_effect {s t : State} (h : exec .ret s = .next t) : Effect .ret s t := by
  by_cases hsp : s.sp.val = 0
  · exact .of_takeFault (if_pos hsp) (by decide) ((if_neg (not_not.mpr hsp)).symm.trans h)
  · exact .of_jump (if_neg hsp) .pop (keepsRegs_refl _ s) ((if_pos hsp).symm.trans h)

theorem call_effect {a : Addr} {s t : State} (h : exec (.call a) s = .next t) : Effect (.call a) s t := by
  by_cases hsp : s.sp.val < 16
  · exact .of_jump (if_neg (by omega)) (.push _ hsp) (keepsRegs_refl _ s) ((dif_pos hsp).symm.trans h)
  · exact .of_takeFault (if_pos (by have := s.sp.isLt; omega)) (by decide) ((dif_neg hsp).symm.trans h)

theorem rnd_effect {x : Nibble} {nn : Byte} {s t : State} (h : exec (.rnd x nn) s = .next t) :
    Effect (.rnd x nn) s t := by
  have hu : Writes s (.rnd x nn) (drawRnd s).2 := by rw [drawRnd_frame]; exact .random _ _
  have hv : KeepsRegs (.rnd x nn) s (drawRnd s).2.v := by rw [drawRnd_frame]; exact keepsRegs_refl _ s
  exact .of_writeReg rfl hu hv rfl h

/-- FX0A: no key to take, or the key that `selectKey` takes. -/
theorem ldVxK_effect {x : Nibble} {s t : State} (h : exec (.ldVxK x) s = .next t) : Effect (.ldVxK x) s t := by
  change execLdVxK x s = .next t at h
  unfold execLdVxK at h
  split at h
  · obtain rfl := awaitKey_next h
    exact .wait rfl
  · next k ks _ =>
    have hsel := (selectKey_spec k ks s).2
    have hu : Writes s (.ldVxK x) (selectKey k ks s).2 := by rw [hsel]; exact .pick _ _
    have hv : KeepsRegs (.ldVxK x) s (selectKey k ks s).2.v := by rw [hsel]; exact keepsRegs_refl _ s
    exact .of_writeReg rfl hu hv rfl h

/-- Everything an instruction that answers a next state can have done. -/
theorem exec_effect {i : Instr} {s t : State} (h : exec i s = .next t) : Effect i s t := by
  have keep := keepsRegs_refl i s
  cases i with
  | cls => exact .of_completeNext rfl (.display _ _ (.inl rfl) fun _ => rfl) keep h
  | ret => exact ret_effect h
  | jp a => exact .of_jump rfl .nothing keep h
  | call a => exact call_effect h
  | seImm x b => exact .of_completeSkip rfl h
  | sneImm x b => exact .of_completeSkip rfl h
  | seReg x y => exact .of_completeSkip rfl h
  | sneReg x y => exact .of_completeSkip rfl h
  | jpV0 a => exact .of_jump rfl .nothing keep h
  | ldImm x b => exact .of_writeReg rfl .nothing keep rfl h
  | addImm x b => exact .of_writeReg rfl .nothing keep rfl h
  | ldReg x y => exact .of_writeReg rfl .nothing keep rfl h
  | orReg x y => exact .of_writeReg rfl .nothing keep rfl h
  | andReg x y => exact .of_writeReg rfl .nothing keep rfl h
  | xorReg x y => exact .of_writeReg rfl .nothing keep rfl h
  | addReg x y => exact .of_writeRegFlag rfl rfl h
  | sub x y => exact .of_writeRegFlag rfl rfl h
  | shr x y => exact .of_writeRegFlag rfl rfl h
  | subn x y => exact .of_writeRegFlag rfl rfl h
  | shl x y => exact .of_writeRegFlag rfl rfl h
  | rnd x b => exact rnd_effect h
  | ldI a => exact .of_completeNext rfl (.index _ (.inl ⟨a, rfl⟩)) keep h
  | addIVx x => exact .of_completeNext rfl (.index _ (.inr (.inl ⟨x, rfl⟩))) (keep.setFlag (by simp [destRegs]) _) h
  | ldFVx x => exact .of_completeNext rfl (.index _ (.inr (.inr ⟨x, rfl⟩))) keep h
  | ldBVx x =>
    exact .of_guard rfl (by decide)
      (fun hp hf => .of_completeNext hf (.store (bcdDigits (s.getV x)) rfl (by simp; omega)) keep) h
  | ldMemVx x =>
    exact .of_guard rfl (by decide)
      (fun hp hf => .of_completeNext hf (.store (blockRegs s x) (blockRegs_length s x) (by simp; omega)) keep) h
  | ldVxMem x =>
    exact .of_guard rfl (by decide) (fun _ hf => .of_completeNext hf .nothing (keepsRegs_blockBytes x s)) h
  | drw x y n =>
    exact .of_completeNext rfl (.display _ _ (.inr ⟨x, y, n, rfl⟩) fun hr => by simp [hr])
      (keep.setFlag (by simp [destRegs]) _) h
  | skp x => exact .of_guard rfl (by decide) (fun _ hf => .of_completeSkip hf) h
  | sknp x => exact .of_guard rfl (by decide) (fun _ hf => .of_completeSkip hf) h
  | ldVxDt x => exact .of_writeReg rfl .nothing keep rfl h
  | ldVxK x => exact ldVxK_effect h
  | ldDtVx x => exact .of_completeNext rfl (.delay _) keep h
  | ldStVx x => exact .of_completeNext rfl (.sound _) keep h

/-! ### The invariant: what keeps it -/

section
variable {s : State}

/-- Outside Halted the invariant has no fault on record (R35, R153). -/
theorem State.Inv.noFault (h : s.Inv) (hm : s.mode ≠ .halted) : s.faultCode = .none :=
  Decidable.not_not.mp (mt h.haltedFault.mpr hm)

/-- Outside Halted, new registers, a reduced `pc` and a mode other than Halted keep the invariant (R23, R87). -/
theorem State.Inv.resume (h : s.Inv) (hm : s.mode ≠ .halted) (v : Vector Byte 16) {p : Word} (hp : p.toNat < 4096)
    {m : Mode} (hm' : m ≠ .halted) : State.Inv { s with v := v, pc := p, mode := m } :=
  { h with
    pcLow := hp
    haltedFault := iff_of_false hm' (not_not.mpr (h.noFault hm))
    haltedPc := fun hh => absurd hh hm' }

/-- A fault entry keeps the invariant (R153). -/
theorem State.Inv.faultEntry (h : s.Inv) {code : FaultCode} (hc : code ≠ .none) (op : Word) :
    State.Inv { s with faultCode := code, faultPc := s.pc, faultOpcode := op, mode := .halted } :=
  { h with
    faultPcLow := h.pcLow
    haltedFault := iff_of_true rfl hc
    haltedPc := fun _ => rfl
    faultClear := fun hn => absurd hn hc }

/-- Pushing a reduced address keeps the invariant (R25). -/
theorem State.Inv.push (h : s.Inv) (n : Nat) (hsp : s.sp.val < 16) : (s.push (wrap12 n) hsp).Inv :=
  { h with
    stackLow := fun k hk => by
      simp only [State.push_stack, Vector.getElem_set]
      split
      · exact wrap12_lt n
      · exact h.stackLow k hk }

/-- What a completing instruction writes beside `V`, `pc` and `MODE` keeps the invariant. -/
theorem Writes.inv {i : Instr} {u : State} (hu : Writes s i u) (h : s.Inv) : u.Inv := by
  cases hu with
  | nothing => exact h
  | index n _ => exact { h with iLow := wrap12_lt n }
  | pop => exact { h with }
  | push n hsp => exact h.push n hsp
  | display fb redraw _ _ => exact { h with }
  | delay x => exact { h with }
  | sound x => exact { h with }
  | store bs _ _ => exact { h with memWf := Memory.wf_writeBytes _ _ bs h.memWf }
  | random rnd draws => exact { h with }
  | pick keyPick draws => exact { h with }

/-- No instruction touches `MODE` before it ends. -/
theorem Writes.mode {i : Instr} {u : State} (hu : Writes s i u) : u.mode = s.mode := by
  cases hu <;> rfl

/-- An instruction run outside Halted keeps the invariant. -/
theorem Effect.inv {i : Instr} {t : State} (he : Effect i s t) (h : s.Inv) (hm : s.mode ≠ .halted) : t.Inv := by
  cases he with
  | fault hf => exact h.faultEntry hf _
  | wait _ => exact h.resume hm s.v h.pcLow (by decide)
  | done _ hu _ n => exact (hu.inv h).resume (hu.mode ▸ hm) _ (wrap12_lt n) (by decide)

/-- The report of an INVALID word keeps the invariant outside Halted (R34, R85). -/
theorem State.Inv.reportInvalid (h : s.Inv) (hm : s.mode ≠ .halted) {op : Word} (hop : isInvalid op = true) :
    (reportInvalid op s).Inv :=
  { h.resume hm s.v (wrap12_lt (s.pc.toNat + 2)) (m := .running) (by decide) with
    invPcLow := h.pcLow
    invClear := fun hn => Bool.noConfusion hn
    invInvalid := fun _ => hop }

theorem State.Inv.timerPhase (h : s.Inv) : (timerPhase s).Inv := by
  rw [timerPhase_frame]; exact { h with }

theorem State.Inv.tickEvent (h : s.Inv) : (tickEvent s).Inv := by
  rw [tickEvent_frame]; exact { h with }

theorem State.Inv.loadEvent (h : s.Inv) (req : LoadRequest) : (loadEvent req s).Inv := by
  unfold Machine.loadEvent
  split
  · exact { h with }
  · split
    · exact { h with memWf := Memory.wf_writeBytes _ _ _ h.memWf }
    · exact { h with }

/-- The state at reset has the invariant: every component of it is 0, and memory lists nothing (R39). -/
theorem reset_inv : State.reset.Inv where
  pcLow := by decide
  iLow := by decide
  stackLow := by simp [State.reset]
  invPcLow := by decide
  faultPcLow := by decide
  memWf := Memory.wf_nil
  haltedFault := by decide
  haltedPc := by decide
  faultClear := fun _ => ⟨rfl, rfl⟩
  invClear := fun _ => ⟨rfl, rfl⟩
  invInvalid := by decide

/-- Reset establishes the invariant but for memory, whose canonical form it keeps (R39). -/
theorem State.Inv.resetEvent (h : s.Inv) : (resetEvent s).Inv :=
  { reset_inv with memWf := Memory.wf_writeBytes _ _ _ h.memWf }

theorem stepEvent_inv {t : State} (h : s.Inv) (hstep : stepEvent s = .next t) : t.Inv := by
  obtain ⟨_, rfl⟩ | ⟨hm, _, ⟨i, u, _, hexec, hend⟩ | ⟨c, hbad, rfl⟩⟩ := stepEvent_cases hstep
  · exact h
  · have hu : u.Inv := (exec_effect hexec).inv h hm
    obtain ⟨_, rfl⟩ | ⟨_, rfl⟩ := hend
    · exact hu
    · exact hu.timerPhase
  · have hinvalid : isInvalid (fetch s) = true := by simp [isInvalid, hbad]
    exact (h.reportInvalid hm hinvalid).timerPhase

theorem applyEvent_inv {t : State} (e : Event) (h : s.Inv) (happly : applyEvent e s = .next t) : t.Inv := by
  cases e with
  | step => exact stepEvent_inv h happly
  | reset => cases happly; exact h.resetEvent
  | load req => cases happly; exact h.loadEvent req
  | tick => cases happly; exact h.tickEvent
  | hostKey k b => cases happly; exact { h with }
  | hostClearRedraw => cases happly; exact { h with }
  | hostClearBeep => cases happly; exact { h with }
  | presentRnd b => cases happly; exact { h with }
  | presentKeyPick k => cases happly; exact { h with }
  | writeStatus port value => cases happly; exact h

end

/-- Settles O4: a Step keeps the invariant by what its instruction can do (`exec_effect`), every other event by itself. -/
theorem everyStepKeepsInvariant : Obligations.EveryStepKeepsInvariant := by
  intro s t h hstep
  obtain ⟨_, hrun⟩ | ⟨e, rest, _, happly⟩ := step_cases hstep
  · exact stepEvent_inv h hrun
  · have hrest : State.Inv { s with agenda := rest } := { h with }
    exact applyEvent_inv e hrest happly

/-- Settles O3: the invariant field by field, and no fault on record. -/
theorem resetMeetsInvariant : Obligations.ResetMeetsInvariant := ⟨reset_inv, trivial⟩

/-! ### The frame of an instruction -/

/-- A store from `I` on that does not wrap leaves every byte outside it (R48). -/
theorem read_store_outside (m : Memory) (base : Nat) (bs : List Byte) (hfit : base + bs.length ≤ 4096) {a : Nat}
    (ha : a < 4096) (hout : a < base ∨ base + bs.length ≤ a) :
    Memory.read (Memory.writeBytes m base bs) a = Memory.read m a := by
  apply Memory.read_writeBytes_outside
  intro j hj
  rw [memSize, Nat.mod_eq_of_lt ha, Nat.mod_eq_of_lt (by omega)]
  omega

/-- Settles O54, from what an instruction can do (`exec_effect`) and, when it completes, what it may write (`Writes`). -/
theorem instructionFrame : Obligations.InstructionFrame := by
  intro i s t h
  cases exec_effect h with
  | fault hf => simp [hf, State.getV]
  | wait hi => subst hi; simp [State.getV]
  | done hf hu hv n =>
    refine ⟨hv, ?_⟩
    cases hu with
    | nothing => simp
    | index n hi => obtain ⟨_, rfl⟩ | ⟨_, rfl⟩ | ⟨_, rfl⟩ := hi <;> simp
    | pop => simp
    | push n hsp => simp
    | display fb redraw hi hr => obtain rfl | ⟨_, _, _, rfl⟩ := hi <;> simpa using hr
    | delay x => simp
    | sound x => simp
    | store bs hl hfit =>
      simp only [← hl]
      simpa using fun a ha hout => read_store_outside s.mem s.i.toNat bs hfit ha hout
    | random rnd draws => simp
    | pick keyPick draws => simp

/-! ### The Reset event -/

/-- After Reset the font region reads as `FONT` (R39). -/
theorem read_resetEvent_font (s : State) (a : Nat) (h : a < 80) :
    Memory.read (resetEvent s).mem a = s.cfg.font[a] := by
  have hread := Memory.read_writeBytes_inside s.mem 0 s.cfg.font.toList (by simp [memSize]) a (by simpa using h)
  rw [Nat.zero_add, Vector.getElem_toList] at hread
  exact hread

/-- Reset leaves the bytes above the font region (R39). -/
theorem read_resetEvent_upper (s : State) (a : Nat) (ha : 80 ≤ a) (hlt : a < 4096) :
    Memory.read (resetEvent s).mem a = Memory.read s.mem a :=
  read_store_outside s.mem 0 s.cfg.font.toList (by simp) hlt (.inr (by simpa using ha))

/-- Settles O1: Reset takes every component from `State.reset`, but for memory, which has `FONT` written from 0 on, and
for what it keeps. -/
theorem resetEventGivesResetValues : Obligations.ResetEventGivesResetValues := by
  intro s
  have hregs : ∀ r, (resetEvent s).getV r = 0#8 := fun r => Vector.getElem_replicate r.isLt
  have hstack : ∀ (k : Nat) (h : k < 16), (resetEvent s).stack[k] = 0#16 := fun k h => Vector.getElem_replicate h
  have hfb : ∀ k < 2048, (resetEvent s).fb.cell k = false := fun k _ => Framebuffer.cell_clear k
  exact ⟨resetEvent s, rfl, hregs, rfl, rfl, rfl, hstack, rfl, rfl, hfb, rfl, rfl, rfl, rfl, rfl, rfl, rfl, rfl, rfl,
    read_resetEvent_font s, read_resetEvent_upper s, rfl, rfl⟩

/-! ### MODE and the meaning of an instruction -/

section
variable (s : State) (m : Mode)

/-- The draw of `RND` neither reads nor writes `MODE`. -/
theorem drawRnd_mode : drawRnd { s with mode := m } = ((drawRnd s).1, { (drawRnd s).2 with mode := m }) := by
  cases hr : s.rnd <;> simp [drawRnd, hr]

/-- The pick among several keys neither reads nor writes `MODE`. -/
theorem drawKey_mode (k : Nibble) (ks : List Nibble) :
    drawKey k ks { s with mode := m } = ((drawKey k ks s).1, { (drawKey k ks s).2 with mode := m }) := by
  cases hp : s.keyPick with
  | nil => simp [drawKey, freePick, hp]
  | cons p rest => by_cases hmem : p ∈ k :: ks <;> simp only [drawKey, freePick, hp, hmem, if_true, if_false]

/-- The choice of a key neither reads nor writes `MODE`. -/
theorem selectKey_mode (k : Nibble) (ks : List Nibble) :
    selectKey k ks { s with mode := m } = ((selectKey k ks s).1, { (selectKey k ks s).2 with mode := m }) := by
  cases hsel : s.cfg.keySelect with
  | lowest => simp [selectKey, hsel]
  | any => simp [selectKey, hsel, drawKey_mode]

/-- No instruction reads `MODE`, and each ends by writing it (log 14). -/
theorem exec_mode (i : Instr) : exec i { s with mode := m } = exec i s := by
  cases i with
  | rnd x nn =>
    change execRnd x nn { s with mode := m } = execRnd x nn s
    rw [execRnd, drawRnd_mode]
    rfl
  | ldVxK x =>
    change execLdVxK x { s with mode := m } = execLdVxK x s
    have hkeys : pressedKeys { s with mode := m } = pressedKeys s := rfl
    unfold execLdVxK
    rw [hkeys]
    cases pressedKeys s with
    | nil => rfl
    | cons k ks => simp only [selectKey_mode]; rfl
  | _ => rfl

end

/-- Settles O21: both sides are `exec i s`, whatever the mode of `s` is (`exec_mode`). -/
theorem awaitingKeyChangesNoMeaning : Obligations.AwaitingKeyChangesNoMeaning := fun i s =>
  (exec_mode s .awaitingKey i).trans (exec_mode s .running i).symm

/-! ### The status ports (R36) -/

/-- The fields of `CORESTAT`, from the low end. -/
theorem corestat_fields (s : State) :
    (corestat s).extractLsb' 0 2 = modeCode s.mode ∧ (corestat s).getLsbD 2 = s.invSeen ∧
      (corestat s).extractLsb' 3 3 = faultCodeBits s.faultCode ∧ (corestat s).extractLsb' 6 2 = 0#2 := by
  unfold corestat
  refine ⟨?_, ?_, ?_, ?_⟩
  · rw [extract_append_low _ _ _ _ (by decide), extract_all]
  · rw [BitVec.getLsbD_append, if_neg (by decide), BitVec.getLsbD_append, if_pos (by decide)]
    simp
  · rw [extract_append_high _ _ _ _ (by decide), extract_append_high _ _ _ _ (by decide),
      extract_append_low _ _ _ _ (by decide), extract_all]
  · rw [extract_append_high _ _ _ _ (by decide), extract_append_high _ _ _ _ (by decide),
      extract_append_high _ _ _ _ (by decide), extract_all]

/-- Settles O57: `CORESTAT` by its fields (`corestat_fields`), the other words and the host's write by definition. -/
theorem statusPorts : Obligations.StatusPorts := by
  refine ⟨rfl, rfl, rfl, fun s => ?_⟩
  obtain ⟨hmode, hseen, hcode, htop⟩ := corestat_fields s
  have hread : (readStatus s .corestat).toNat = (corestat s).toNat :=
    BitVec.toNat_setWidth_of_le (by decide)
  exact ⟨hmode, hseen, hcode, htop, rfl, rfl, rfl, rfl, hread, fun _ _ => rfl⟩

end Sys2Proof.Machine

/-! PROOFS. Fetch, a fetch of stored bytes, and the layout of an instruction as two bytes (spec/20_memory.md R44, R45, R47,
R55; spec/30_encoding.md R60, R65; spec/40_step.md R81). -/

namespace Sys2Proof.Machine

/-! ### Every instruction answers (R152) -/

/-- An instruction with a fault condition answers on both sides of it. -/
theorem answers_ite {p : Prop} [Decidable p] {r r' : Result} (h : ∃ t, r = .next t) (h' : ∃ t, r' = .next t) :
    ∃ t, (if p then r else r') = .next t := by
  by_cases hp : p
  · rwa [if_pos hp]
  · rwa [if_neg hp]

theorem execCall_answers (a : Addr) (s : State) : ∃ t, execCall a s = .next t := by
  unfold execCall
  split
  · exact ⟨_, rfl⟩
  · exact ⟨_, rfl⟩

theorem execLdVxK_answers (x : Nibble) (s : State) : ∃ t, execLdVxK x s = .next t := by
  unfold execLdVxK
  split
  · exact ⟨_, rfl⟩
  · exact ⟨_, rfl⟩

/-- No instruction stops the machine: it completes, waits, or enters a fault, which is a next state too (R153). -/
theorem exec_answers (i : Instr) (s : State) : ∃ t, exec i s = .next t := by
  cases i with
  | call a => exact execCall_answers a s
  | ldVxK x => exact execLdVxK_answers x s
  | ret | ldBVx x | ldMemVx x | ldVxMem x | skp x | sknp x => exact answers_ite ⟨_, rfl⟩ ⟨_, rfl⟩
  | _ => exact ⟨_, rfl⟩

/-! ### A Step that is ready answers (R47, R80) -/

theorem afterExec_answers {r : Result} (h : ∃ t, r = .next t) : ∃ t, afterExec r = .next t := by
  obtain ⟨u, rfl⟩ := h
  exact answers_ite ⟨_, rfl⟩ ⟨_, rfl⟩

/-- Whatever word is fetched, the cycle answers: the instruction's, or the report of an INVALID word (R85). -/
theorem runCycle_answers (s : State) : ∃ t, runCycle s = .next t := by
  unfold runCycle
  split
  · exact afterExec_answers (exec_answers _ s)
  · exact ⟨_, rfl⟩

theorem loadFailed_of_ready {s : State} (h : s.ReadyToStep) : loadFailed s = false := by
  obtain ⟨_, _, hload | hload⟩ := h <;> simp [loadFailed, hload]

/-- The next event of a state ready to step is a whole cycle. -/
theorem step_of_ready {s : State} (h : s.ReadyToStep) : step s = runCycle s := by
  have hload := loadFailed_of_ready h
  obtain ⟨hagenda, hmode, _⟩ := h
  simp [step, nextEvent, stepEvent, hagenda, hmode, hload]

/-! ### Fetch (R81) -/

/-- Fetch reads the word at `pc`, high byte first; a read reduces its address. -/
theorem fetch_eq_reads (s : State) :
    fetch s = (Memory.read s.mem s.pc.toNat ++ Memory.read s.mem (s.pc.toNat + 1) : Word) := rfl

/-- The second byte is the one at `(pc + 1) mod 4096`. -/
theorem fetch_eq_reads_mod (s : State) :
    fetch s = Memory.read s.mem s.pc.toNat ++ Memory.read s.mem ((s.pc.toNat + 1) % 4096) := by
  rw [fetch_eq_reads, ← Memory.read_mod s.mem (s.pc.toNat + 1), memSize]

/-- Settles O13: fetch by its bytes (`fetch_eq_reads_mod`), and a ready Step by the cycle it is, which answers whatever
is fetched. -/
theorem fetchBigEndianNeverFaults : Obligations.FetchBigEndianNeverFaults := by
  refine fun s => ⟨fetch_eq_reads_mod s, fun hready => ?_, fun hpc => ?_⟩
  · rw [step_of_ready hready]
    exact runCycle_answers s
  · rw [fetch_eq_reads_mod, hpc]
    rfl

/-! ### Fetch of what FX55 stored (R45, R124) -/

/-- FX55 with `I + X` in range stores the registers up to `X` from `I` on and completes. -/
theorem ldMemVx_mem {s t : State} {x : Nibble} (hin : s.i.toNat + x.toNat ≤ 0xFFF)
    (h : exec (.ldMemVx x) s = .next t) : t.mem = Memory.writeBytes s.mem s.i.toNat (blockRegs s x) := by
  have hpast : ¬ pastTop s x.toNat = true := by simpa [pastTop] using hin
  rw [completeNext_next ((if_neg hpast).symm.trans h)]

/-- The `k`-th byte FX55 stores is `V[k]`. -/
theorem read_store_blockRegs (m : Memory) (a : Nat) (s : State) (x : Nibble) {k : Nat} (hk : k ≤ x.toNat) :
    Memory.read (Memory.writeBytes m a (blockRegs s x)) (a + k) = s.getV (regOfNat k) := by
  have hlen : (blockRegs s x).length = x.toNat + 1 := blockRegs_length s x
  have hfit : (blockRegs s x).length ≤ memSize := by have := x.isLt; unfold memSize; omega
  rw [Memory.read_writeBytes_inside m a (blockRegs s x) hfit k (by omega)]
  simp [blockRegs]

/-- Settles O14: both bytes of the fetch are among those FX55 stored (`read_store_blockRegs`). -/
theorem storedBytesAreFetched : Obligations.StoredBytesAreFetched := by
  intro s t x k hin hk hexec
  have hpc : (BitVec.ofNat 16 (s.i.toNat + k)).toNat = s.i.toNat + k := by simp; omega
  have hread : ∀ j ≤ x.toNat, Memory.read t.mem (s.i.toNat + j) = s.getV (regOfNat j) := by
    rw [ldMemVx_mem hin hexec]
    exact fun j => read_store_blockRegs s.mem s.i.toNat s x
  rw [fetch_eq_reads, hpc, Nat.add_assoc, hread k (by omega), hread (k + 1) (by omega)]
  rfl

/-! ### Decoding what was encoded (R62, R65) -/

theorem decode_encEight (x y f : Nibble) : decode (encRegReg 0x8#4 x y f) = decodeEight (encRegReg 0x8#4 x y f) := by
  simp [decode, fieldTop_encRegReg]

theorem decode_encE (x : Nibble) (b : Byte) : decode (encReg 0xE#4 x b) = decodeE (encReg 0xE#4 x b) := by
  simp [decode, fieldTop_encReg]

theorem decode_encF (x : Nibble) (b : Byte) : decode (encReg 0xF#4 x b) = decodeF (encReg 0xF#4 x b) := by
  simp [decode, fieldTop_encReg]

/-- An instruction's word decodes to it, one case a format of R62 or a family of R65. -/
theorem decode_encode (i : Instr) : decode (encode i) = .ok i := by
  cases i with
  | cls | ret => rfl
  | jp a | call a | jpV0 a | ldI a => simp [encode, decode, fieldTop_encAddr, fieldNNN_encAddr]
  | seImm x b | sneImm x b | ldImm x b | addImm x b =>
    simp [encode, decode, fieldTop_encRegImm, fieldX_encRegImm, fieldNN_encRegImm]
  | rnd x b => exact decode_rnd x b
  | seReg x y | sneReg x y | drw x y n =>
    simp [encode, decode, fieldTop_encRegReg, fieldX_encRegReg, fieldY_encRegReg, fieldN_encRegReg]
  | ldReg x y | orReg x y | andReg x y | xorReg x y | addReg x y | sub x y | shr x y | subn x y | shl x y =>
    simp [encode, decode_encEight, decodeEight, fieldX_encRegReg, fieldY_encRegReg, fieldN_encRegReg]
  | skp x | sknp x => simp [encode, decode_encE, decodeE, fieldX_encReg, fieldNN_encReg]
  | addIVx x | ldFVx x | ldBVx x | ldMemVx x | ldVxMem x | ldVxDt x | ldVxK x | ldDtVx x | ldStVx x =>
    simp [encode, decode_encF, decodeF, fieldX_encReg, fieldNN_encReg]

/-! ### An instruction as two bytes (R44, R60) -/

/-- `op[15:8]` is the word divided by 256. -/
theorem ofNat_div_eq_highByte (w : Word) : BitVec.ofNat 8 (w.toNat / 256) = highByte w := by
  simp [highByte, BitVec.extractLsb', Nat.shiftRight_eq_div_pow]

/-- `op[7:0]` is the word modulo 256. -/
theorem ofNat_mod_eq_lowByte (w : Word) : BitVec.ofNat 8 (w.toNat % 256) = lowByte w := by
  apply BitVec.eq_of_toNat_eq
  simp [lowByte]

/-- Two bytes of a word that decodes are read as its instruction, and the bytes after them are left. -/
theorem decodeBytes_of_decode {w : Word} {i : Instr} (h : decode w = .ok i) (rest : List Byte) :
    decodeBytes (highByte w :: lowByte w :: rest) = .ok (i, rest) := by
  simp [decodeBytes, wordOfBytes_bytes, h]

/-- Settles O11: the bytes put together are the word (`wordOfBytes_bytes`), which decodes to `i` (`decode_encode`). -/
theorem bytesDecodeBigEndian : Obligations.BytesDecodeBigEndian := by
  intro i rest
  rw [ofNat_div_eq_highByte, ofNat_mod_eq_lowByte]
  exact decodeBytes_of_decode (decode_encode i) rest

end Sys2Proof.Machine

/-! PROOFS. The decoder, word by word (spec/30_encoding.md R62, R65, R66, R68): the word of what a word decodes to, the
digits of the words that decode to nothing, and the opcode table's rows as a second reading of both. -/

namespace Sys2Proof.Machine

/-- Settles O6: each format's fields are read back from the word (`decode_encode`). -/
theorem decodeOfEncode : Obligations.DecodeOfEncode := decode_encode

/-- Settles O10: each word is the encoding of its instruction, which decodes to it. -/
theorem knownWordsDecode : Obligations.KnownWordsDecode :=
  ⟨decode_encode .cls, decode_encode (.call 0xABC), decode_encode (.shr 5 3), decode_encode (.rnd 3 0x0F),
    decode_encode (.ldBVx 0xA), decode_encode (.drw 0 1 5), decode_encode (.sknp 5)⟩

/-! ### A word from the digits the decoder has read (R61, R62) -/

theorem ofNat_of_toNat_eq {n k : Nat} {a : BitVec n} (h : a.toNat = k) : BitVec.ofNat n k = a := by
  simp [← h]

section
variable {w : Word} {o f : Nat}

theorem encAddr_of_top (ho : (fieldTop w).toNat = o) : encAddr (BitVec.ofNat 4 o) (fieldNNN w) = w := by
  rw [ofNat_of_toNat_eq ho]
  exact word_of_addr_fields w

theorem encRegImm_of_top (ho : (fieldTop w).toNat = o) :
    encRegImm (BitVec.ofNat 4 o) (fieldX w) (fieldNN w) = w := by
  rw [ofNat_of_toNat_eq ho]
  exact word_of_imm_fields w

theorem encReg_of_digits (ho : (fieldTop w).toNat = o) (hf : (fieldNN w).toNat = f) :
    encReg (BitVec.ofNat 4 o) (fieldX w) (BitVec.ofNat 8 f) = w := by
  rw [ofNat_of_toNat_eq hf]
  exact encRegImm_of_top ho

theorem encRegReg_of_top (ho : (fieldTop w).toNat = o) :
    encRegReg (BitVec.ofNat 4 o) (fieldX w) (fieldY w) (fieldN w) = w := by
  rw [ofNat_of_toNat_eq ho]
  exact word_of_reg_fields w

theorem encRegReg_of_digits (ho : (fieldTop w).toNat = o) (hf : (fieldN w).toNat = f) :
    encRegReg (BitVec.ofNat 4 o) (fieldX w) (fieldY w) (BitVec.ofNat 4 f) = w := by
  rw [ofNat_of_toNat_eq hf]
  exact encRegReg_of_top ho

end

/-! ### What a word is decoded to (R62, R65, R68) -/

/-- R68's table: the digits of the words of a class, by the fields the decoder reads. -/
def ClassDigits (w : Word) : InvalidClass → Prop
  | .zero  => (fieldTop w).toNat = 0x0 ∧ w ≠ 0x00E0#16 ∧ w ≠ 0x00EE#16
  | .five  => (fieldTop w).toNat = 0x5 ∧ fieldN w ≠ 0x0#4
  | .eight => (fieldTop w).toNat = 0x8 ∧ (fieldN w).toNat ∈ [8, 9, 0xA, 0xB, 0xC, 0xD, 0xF]
  | .nine  => (fieldTop w).toNat = 0x9 ∧ fieldN w ≠ 0x0#4
  | .e     => (fieldTop w).toNat = 0xE ∧ (fieldNN w).toNat ∉ [0x9E, 0xA1]
  | .f     => (fieldTop w).toNat = 0xF ∧
      (fieldNN w).toNat ∉ [0x07, 0x0A, 0x15, 0x18, 0x1E, 0x29, 0x33, 0x55, 0x65]

/-- An answer that fits the word: an instruction whose word it is, or the class its digits are in. -/
def Fits (w : Word) : Except InvalidClass Instr → Prop
  | .ok i    => encode i = w
  | .error c => ClassDigits w c

section
variable {w : Word}

theorem decodeZero_fits (ho : (fieldTop w).toNat = 0x0) : Fits w (decodeZero w) := by
  unfold decodeZero
  split_ifs with hcls hret
  · exact hcls.symm
  · exact hret.symm
  · exact ⟨ho, hcls, hret⟩

theorem decodeEight_fits (ho : (fieldTop w).toNat = 0x8) : Fits w (decodeEight w) := by
  unfold decodeEight
  split
  case h_10 =>
    have hlt := (fieldN w).isLt
    simp only [imp_false] at *
    refine ⟨ho, ?_⟩
    simp only [List.mem_cons, List.not_mem_nil]
    omega
  all_goals exact encRegReg_of_digits ho ‹_›

theorem decodeE_fits (ho : (fieldTop w).toNat = 0xE) : Fits w (decodeE w) := by
  unfold decodeE
  split
  case h_3 => exact ⟨ho, by simp_all⟩
  all_goals exact encReg_of_digits ho ‹_›

theorem decodeF_fits (ho : (fieldTop w).toNat = 0xF) : Fits w (decodeF w) := by
  unfold decodeF
  split
  case h_10 => exact ⟨ho, by simp_all⟩
  all_goals exact encReg_of_digits ho ‹_›

/-- The 0x5 and 0x9 families, which select by `op[3:0] = 0`. -/
theorem fits_ite_selector {i : Instr} {c : InvalidClass} (hok : (fieldN w).toNat = 0 → encode i = w)
    (herr : fieldN w ≠ 0x0#4 → ClassDigits w c) : Fits w (if fieldN w = 0x0#4 then .ok i else .error c) := by
  split_ifs with hn
  · exact hok (congrArg BitVec.toNat hn)
  · exact herr hn

/-- The decoder's answer fits the word, one case a digit of R65's dispatch. -/
theorem decode_fits (w : Word) : Fits w (decode w) := by
  unfold decode
  split
  case h_1 ho => exact decodeZero_fits ho
  case h_6 ho | h_10 ho => exact fits_ite_selector (encRegReg_of_digits ho) (⟨ho, ·⟩)
  case h_9 ho => exact decodeEight_fits ho
  case h_15 ho => exact decodeE_fits ho
  case h_16 =>
    have hlt := (fieldTop w).isLt
    simp only [imp_false] at *
    exact decodeF_fits (by omega)
  case h_2 ho | h_3 ho | h_11 ho | h_12 ho => exact encAddr_of_top ho
  case h_14 ho => exact encRegReg_of_top ho
  all_goals exact encRegImm_of_top ‹_›

/-- The decoder rejects the words of a class, and by that class. -/
theorem decode_of_classDigits {c : InvalidClass} (h : ClassDigits w c) : decode w = .error c := by
  cases c with
  | zero =>
    obtain ⟨ho, hcls, hret⟩ := h
    simp [decode, ho, decodeZero, hcls, hret]
  | five | nine =>
    obtain ⟨ho, hn⟩ := h
    simp [decode, ho, hn]
  | eight =>
    obtain ⟨ho, hn⟩ := h
    simp only [List.mem_cons, List.not_mem_nil, or_false] at hn
    obtain hn | hn | hn | hn | hn | hn | hn := hn <;> simp [decode, ho, decodeEight, hn]
  | e =>
    obtain ⟨ho, hn⟩ := h
    simp only [List.mem_cons, List.not_mem_nil, or_false, not_or] at hn
    simp [decode, ho, decodeE, hn]
  | f =>
    obtain ⟨ho, hn⟩ := h
    simp only [List.mem_cons, List.not_mem_nil, or_false, not_or] at hn
    simp [decode, ho, decodeF, hn]

theorem encode_of_decode {i : Instr} (h : decode w = .ok i) : encode i = w := by
  have hfits := decode_fits w
  rwa [h] at hfits

theorem decode_error_iff {c : InvalidClass} : decode w = .error c ↔ ClassDigits w c := by
  refine ⟨fun h => ?_, decode_of_classDigits⟩
  have hfits := decode_fits w
  rwa [h] at hfits

end

/-- Settles O7: the decoder has read every digit of the word (`decode_fits`). -/
theorem encodeOfDecode : Obligations.EncodeOfDecode := fun _ _ => encode_of_decode

/-! ### The digits of a word as numbers (R61) -/

theorem fieldTop_toNat (w : Word) : (fieldTop w).toNat = w.toNat / 4096 := by
  have hlt := w.isLt
  rw [fieldTop, BitVec.extractLsb'_toNat, Nat.shiftRight_eq_div_pow]
  omega

theorem fieldN_toNat (w : Word) : (fieldN w).toNat = w.toNat % 16 := by
  simp [fieldN]

theorem fieldNN_toNat (w : Word) : (fieldNN w).toNat = w.toNat % 256 := by
  simp [fieldNN]

/-- Settles O9: the decoder rejects by the fields (`decode_error_iff`), which are these digits. -/
theorem invalidClassesOfWords : Obligations.InvalidClassesOfWords := by
  intro w
  simp [decode_error_iff, ClassDigits, fieldTop_toNat, fieldN_toNat, fieldNN_toNat, ← BitVec.toNat_inj]

/-! ### The opcode table (R66) -/

open Laws.TableRow in
theorem tableRow (i : Instr) : Statement i := by
  cases i
  exacts [cls, ret, jp _, call _, seImm _ _, sneImm _ _, seReg _ _, sneReg _ _, jpV0 _, ldImm _ _, addImm _ _,
    ldReg _ _, orReg _ _, andReg _ _, xorReg _ _, addReg _ _, sub _ _, shr _ _, subn _ _, shl _ _, rnd _ _, ldI _,
    addIVx _, ldFVx _, ldBVx _, ldMemVx _, ldVxMem _, drw _ _ _, skp _, sknp _, ldVxDt _, ldVxK _, ldDtVx _, ldStVx _]

theorem rowMatches_iff {r : OpcodeRow} {w : Word} : rowMatches r w = true ↔ w &&& r.mask = r.pattern := beq_iff_eq

/-- Two rows whose patterns agree on the digits constant in both are one row. -/
theorem row_eq_of_overlap : ∀ r ∈ opcodeRows, ∀ r' ∈ opcodeRows,
    r.pattern &&& r'.mask = r'.pattern &&& r.mask → r' = r := by decide

/-- A word matches one row only. -/
theorem row_eq_of_rowMatches {r r' : OpcodeRow} (hr : r ∈ opcodeRows) (hr' : r' ∈ opcodeRows) {w : Word}
    (h : rowMatches r w = true) (h' : rowMatches r' w = true) : r' = r := by
  rw [rowMatches_iff] at h h'
  refine row_eq_of_overlap r hr r' hr' ?_
  rw [← h, ← h', BitVec.and_assoc, BitVec.and_assoc, BitVec.and_comm r.mask]

/-- The word with 0 in every operand digit of a row is an instruction. -/
theorem isInvalid_pattern : ∀ r ∈ opcodeRows, isInvalid r.pattern = false := by decide

/-- A row writes as constants the first digit and those by which its family selects (R65). -/
theorem row_mask_digits : ∀ r ∈ opcodeRows,
    fieldTop r.mask = BitVec.allOnes 4 ∧
    ((fieldTop r.pattern).toNat = 0 → r.mask = BitVec.allOnes 16) ∧
    ((fieldTop r.pattern).toNat ∈ [5, 8, 9] → fieldN r.mask = BitVec.allOnes 4) ∧
    ((fieldTop r.pattern).toNat ∈ [0xE, 0xF] → fieldNN r.mask = BitVec.allOnes 8) := by decide

/-- A field that a mask leaves whole is the same in the word and in the masked word. -/
theorem extract_of_masked {w m p : Word} {lo len : Nat} (h : w &&& m = p)
    (hm : m.extractLsb' lo len = BitVec.allOnes len) : w.extractLsb' lo len = p.extractLsb' lo len := by
  rw [← h, BitVec.extractLsb'_and, hm, BitVec.and_allOnes]

/-- A word that matches a row has in common with the row's pattern every digit that decides a class of INVALID words. -/
theorem ClassDigits.pattern {r : OpcodeRow} (hr : r ∈ opcodeRows) {w : Word} (hmatch : rowMatches r w = true)
    {c : InvalidClass} (h : ClassDigits w c) : ClassDigits r.pattern c := by
  rw [rowMatches_iff] at hmatch
  obtain ⟨htopMask, hwordMask, hnMask, hnnMask⟩ := row_mask_digits r hr
  have htop : fieldTop w = fieldTop r.pattern := extract_of_masked hmatch htopMask
  unfold ClassDigits at h ⊢
  rw [htop] at h
  cases c with
  | zero =>
    have hw : w = r.pattern := by rw [← hmatch, hwordMask h.1, BitVec.and_allOnes]
    rwa [hw] at h
  | five | eight | nine =>
    have hn : fieldN w = fieldN r.pattern := extract_of_masked hmatch (hnMask (by simp [h.1]))
    rwa [hn] at h
  | e | f =>
    have hnn : fieldNN w = fieldNN r.pattern := extract_of_masked hmatch (hnnMask (by simp [h.1]))
    rwa [hnn] at h

theorem isInvalid_iff {w : Word} : isInvalid w = true ↔ ∃ c, decode w = .error c := by
  unfold isInvalid
  split <;> simp [*]

theorem exists_row_of_decode {w : Word} {i : Instr} (h : decode w = .ok i) :
    ∃ r ∈ opcodeRows, r.mnemonic = mnemonic i ∧ rowMatches r w = true := by
  obtain ⟨_, hrow⟩ := tableRow i
  rwa [encode_of_decode h] at hrow

theorem rowMatches_eq_false_of_isInvalid {w : Word} (h : isInvalid w = true) {r : OpcodeRow} (hr : r ∈ opcodeRows) :
    rowMatches r w = false := by
  obtain ⟨c, hc⟩ := isInvalid_iff.mp h
  rw [Bool.eq_false_iff]
  intro hmatch
  have hpattern : isInvalid r.pattern = true :=
    isInvalid_iff.mpr ⟨c, decode_error_iff.mpr ((decode_error_iff.mp hc).pattern hr hmatch)⟩
  exact absurd (isInvalid_pattern r hr) (by simp [hpattern])

theorem isInvalid_of_no_row {w : Word} (h : ∀ r ∈ opcodeRows, rowMatches r w = false) : isInvalid w = true := by
  rw [isInvalid_iff]
  cases hdecode : decode w with
  | error c => exact ⟨c, rfl⟩
  | ok i =>
    obtain ⟨r, hr, _, hmatch⟩ := exists_row_of_decode hdecode
    exact absurd hmatch (by simp [h r hr])

/-- Settles O8: an instruction's word matches its row (`tableRow`) and no two rows overlap; a word that matches a row
has the digits of the row's pattern, which is no INVALID word. -/
theorem decodeFollowsOpcodeTable : Obligations.DecodeFollowsOpcodeTable := by
  refine ⟨fun w i h => ?_, fun w => ⟨fun h r hr => ?_, isInvalid_of_no_row⟩, by decide⟩
  case refine_2 => exact rowMatches_eq_false_of_isInvalid h hr
  obtain ⟨r, hr, hmnemonic, hmatch⟩ := exists_row_of_decode h
  exact ⟨r, hr, hmnemonic, hmatch, fun r' hr' hmatch' => row_eq_of_rowMatches hr hr' hmatch hmatch'⟩

end Sys2Proof.Machine

/-! PROOFS. The Step (spec/40_step.md R80 to R88): its cycle for a word that decodes and for an INVALID one, fault entry,
what the host's other events leave alone, and `TIMER_MODE`, which decides the timer phase of a Step and nothing else of it. -/

namespace Sys2Proof.Machine

/-! ### The cycle (R80) -/

section
variable {s : State}

theorem runCycle_of_decode {i : Instr} (h : decode (fetch s) = .ok i) : runCycle s = afterExec (exec i s) := by
  simp only [runCycle, h]

theorem runCycle_of_isInvalid (h : isInvalid (fetch s) = true) :
    runCycle s = .next (timerPhase (reportInvalid (fetch s) s)) := by
  obtain ⟨c, hc⟩ := isInvalid_iff.mp h
  simp only [runCycle, hc]

theorem timerPhase_decoupled (h : s.cfg.timerMode = .decoupled) : timerPhase s = s := by
  simp only [timerPhase, h]

theorem timerPhase_perStep (h : s.cfg.timerMode = .perStep) : timerPhase s = timerDecrement s := by
  simp only [timerPhase, h]

theorem afterExec_halted (h : s.mode = .halted) : afterExec (.next s) = .next s := if_pos h

theorem afterExec_not_halted (h : s.mode ≠ .halted) : afterExec (.next s) = .next (timerPhase s) := if_neg h

/-- Under Decoupled the end of a Step adds nothing to the instruction's answer, whatever its mode (R86). -/
theorem afterExec_decoupled (h : s.cfg.timerMode = .decoupled) : afterExec (.next s) = .next s := by
  by_cases hmode : s.mode = .halted
  · exact afterExec_halted hmode
  · rw [afterExec_not_halted hmode, timerPhase_decoupled h]

/-- A Step in Halted does nothing (R88). -/
theorem stepEvent_halted (h : s.mode = .halted) : stepEvent s = .next s := if_pos h

end

/-- Settles O15: a ready Step is a cycle (`step_of_ready`), and `afterExec` is the end of one. -/
theorem stepRunsDecodedInstruction : Obligations.StepRunsDecodedInstruction := by
  refine ⟨fun s i hready hdecode => ?_, fun t => ⟨timerPhase_decoupled, timerPhase_perStep⟩⟩
  obtain ⟨t, hexec⟩ := exec_answers i s
  rw [step_of_ready hready, runCycle_of_decode hdecode, hexec]
  rfl

/-! ### Fault entry (R151, R153) -/

/-- Where R150 gives a fault, fault entry is the one effect left to the instruction: it neither waits nor completes. -/
theorem exec_of_fault {i : Instr} {s : State} (hf : faultOf i s ≠ .none) :
    exec i s = .next { s with faultCode := faultOf i s, faultPc := s.pc, faultOpcode := encode i, mode := .halted } := by
  obtain ⟨t, hexec⟩ := exec_answers i s
  cases exec_effect hexec with
  | fault _ => exact hexec
  | wait hi => subst hi; exact absurd rfl hf
  | done hnone _ _ _ => exact absurd hnone hf

/-- Settles O19: fault entry ends in Halted, so that no timer phase follows, and the word is the fetched one
(`encode_of_decode`). -/
theorem faultEntryIsPrecise : Obligations.FaultEntryIsPrecise := by
  refine ⟨fun i s hf => exec_of_fault hf, fun s i hready hdecode hf => ?_⟩
  rw [step_of_ready hready, runCycle_of_decode hdecode, exec_of_fault hf, encode_of_decode hdecode]
  exact afterExec_halted rfl

/-! ### What the host's events leave alone (R18, R88) -/

theorem loadEvent_frame (req : LoadRequest) (s : State) :
    loadEvent req s = { s with mem := (loadEvent req s).mem, loadResult := (loadEvent req s).loadResult } := by
  unfold loadEvent
  split
  · rfl
  · split <;> rfl

/-- An event that is neither Reset nor Step writes nothing but memory, the timers, the two flags the host reads, the keypad
and the record of the last Load and of the inputs presented. -/
theorem hostEvent_frame {e : Event} {s t : State} (hreset : e ≠ .reset) (hstep : e ≠ .step)
    (h : applyEvent e s = .next t) :
    t = { s with
      mem := t.mem, loadResult := t.loadResult, dt := t.dt, st := t.st, beep := t.beep, redraw := t.redraw,
      key := t.key, rnd := t.rnd, keyPick := t.keyPick } := by
  cases e with
  | reset => exact absurd rfl hreset
  | step => exact absurd rfl hstep
  | load req => cases h; rw [loadEvent_frame]
  | tick => cases h; rw [tickEvent_frame]
  | hostKey k b => cases h; rfl
  | hostClearRedraw => cases h; rfl
  | hostClearBeep => cases h; rfl
  | presentRnd b => cases h; rfl
  | presentKeyPick k => cases h; rfl
  | writeStatus port value => cases h; rfl

/-- Settles O17: a Halted Step does nothing (`stepEvent_halted`), and no event but Reset and Step writes `MODE`. -/
theorem haltedUntilReset : Obligations.HaltedUntilReset := by
  refine ⟨fun s => stepEvent_halted, fun e s t hreset happly hmode => ?_, fun s => ⟨_, rfl, rfl, rfl⟩⟩
  by_cases he : e = .step
  · subst he
    obtain rfl : s = t := Host.Outcome.next.inj ((stepEvent_halted hmode).symm.trans happly)
    exact hmode
  · exact (congrArg State.mode (hostEvent_frame hreset he happly)).trans hmode

/-! ### The report of an INVALID word (R85) -/

theorem timerPhase_invSeen (s : State) : (timerPhase s).invSeen = s.invSeen := by
  rw [timerPhase_frame]

/-- No instruction writes INV_SEEN or a parameter (R11, R34). -/
theorem exec_invSeen_cfg {i : Instr} {s t : State} (h : exec i s = .next t) : t.invSeen = s.invSeen ∧ t.cfg = s.cfg := by
  obtain ⟨_, _, _, _, _, _, _, _, _, hcfg, hseen, _⟩ := instructionFrame i s t h
  exact ⟨hseen, hcfg⟩

/-- No Step clears INV_SEEN: an instruction leaves it, a report sets it. -/
theorem stepEvent_invSeen {s t : State} (h : stepEvent s = .next t) (hs : s.invSeen = true) : t.invSeen = true := by
  obtain ⟨_, rfl⟩ | ⟨_, _, ⟨i, u, _, hexec, ⟨_, rfl⟩ | ⟨_, rfl⟩⟩ | ⟨c, _, rfl⟩⟩ := stepEvent_cases h
  · exact hs
  · exact (exec_invSeen_cfg hexec).1.trans hs
  · rw [timerPhase_invSeen, (exec_invSeen_cfg hexec).1, hs]
  · rw [timerPhase_invSeen, reportInvalid_invSeen]

/-- Settles O16: the cycle of an INVALID word is the report (`runCycle_of_isInvalid`) with no timer phase under Decoupled;
INV_SEEN stays under a Step (`stepEvent_invSeen`), and the host's other events do not write it. -/
theorem invalidWordReported : Obligations.InvalidWordReported := by
  refine ⟨fun s hready hinvalid hmode => ?_, fun e s t hreset happly hs => ?_⟩
  · rw [step_of_ready hready, runCycle_of_isInvalid hinvalid, timerPhase_decoupled (s := reportInvalid _ s) hmode]
    rfl
  · by_cases he : e = .step
    · subst he
      exact stepEvent_invSeen happly hs
    · exact (congrArg State.invSeen (hostEvent_frame hreset he happly)).trans hs

/-! ### TIMER_MODE and the meaning of an instruction (R11, R86) -/

/-- The same state on a machine with another `TIMER_MODE`. -/
def State.withTimerMode (m : TimerMode) (s : State) : State := { s with cfg := { s.cfg with timerMode := m } }

/-- A change of the state an answer holds, if it holds one. -/
def mapNext (f : State → State) : Result → Result
  | .next s => .next (f s)
  | .fault r => .fault r
  | .refused r => .refused r

/-- An instruction with a fault condition, taken apart on both sides of it. -/
theorem ite_eq_mapNext {p : Prop} [Decidable p] {f : State → State} {r r' q q' : Result} (h : q = mapNext f r)
    (h' : q' = mapNext f r') : (if p then q else q') = mapNext f (if p then r else r') := by
  rw [h, h', apply_ite (mapNext f)]

section
variable (m : TimerMode) (s : State)

theorem drawRnd_withTimerMode :
    drawRnd (s.withTimerMode m) = ((drawRnd s).1, (drawRnd s).2.withTimerMode m) := by
  cases hr : s.rnd <;> simp [drawRnd, State.withTimerMode, hr]

theorem drawKey_withTimerMode (k : Nibble) (ks : List Nibble) :
    drawKey k ks (s.withTimerMode m) = ((drawKey k ks s).1, (drawKey k ks s).2.withTimerMode m) := by
  cases hp : s.keyPick with
  | nil => simp [drawKey, freePick, State.withTimerMode, hp]
  | cons p rest =>
    by_cases hmem : p ∈ k :: ks <;> simp only [drawKey, freePick, State.withTimerMode, hp, hmem, if_true, if_false]

theorem selectKey_withTimerMode (k : Nibble) (ks : List Nibble) :
    selectKey k ks (s.withTimerMode m) = ((selectKey k ks s).1, (selectKey k ks s).2.withTimerMode m) := by
  have hcfg : (s.withTimerMode m).cfg.keySelect = s.cfg.keySelect := rfl
  cases hsel : s.cfg.keySelect with
  | lowest => simp only [selectKey, hcfg, hsel]
  | any => simp only [selectKey, hcfg, hsel, drawKey_withTimerMode]

/-- No instruction reads or writes `TIMER_MODE` (R11). -/
theorem exec_withTimerMode (i : Instr) :
    exec i (s.withTimerMode m) = mapNext (State.withTimerMode m) (exec i s) := by
  cases i with
  | call a =>
    change execCall a (s.withTimerMode m) = mapNext _ (execCall a s)
    unfold execCall
    rw [apply_dite (mapNext _)]
    rfl
  | ret | ldBVx x | ldMemVx x | ldVxMem x | skp x | sknp x => exact ite_eq_mapNext rfl rfl
  | rnd x nn =>
    change execRnd x nn (s.withTimerMode m) = mapNext _ (execRnd x nn s)
    rw [execRnd, drawRnd_withTimerMode]
    rfl
  | ldVxK x =>
    change execLdVxK x (s.withTimerMode m) = mapNext _ (execLdVxK x s)
    have hkeys : pressedKeys (s.withTimerMode m) = pressedKeys s := rfl
    unfold execLdVxK
    rw [hkeys]
    cases pressedKeys s with
    | nil => rfl
    | cons k ks => simp only [selectKey_withTimerMode]; rfl
  | _ => rfl

end

/-! ### The Step without its timer phase (R83, R86) -/

/-- The Step up to its timer phase: what R88 or the failed Load says, else the instruction or the report (R80). -/
def untimedStep (s : State) : Result :=
  if s.mode = .halted then .next s
  else if loadFailed s then .fault .stepAfterFailedLoad
  else
    match decode (fetch s) with
    | .ok i => exec i s
    | .error _ => .next (reportInvalid (fetch s) s)

/-- A Step is its untimed part and the timer phase, which Halted is spared: one that found the engine Halted, and one that
faulted. -/
theorem stepEvent_eq_afterExec (s : State) : stepEvent s = afterExec (untimedStep s) := by
  unfold stepEvent untimedStep
  split_ifs with hmode _
  · exact (afterExec_halted hmode).symm
  · rfl
  · cases hdecode : decode (fetch s) with
    | ok i => exact runCycle_of_decode hdecode
    | error c =>
      rw [runCycle_of_isInvalid (isInvalid_iff.mpr ⟨c, hdecode⟩)]
      exact (afterExec_not_halted (by simp)).symm

/-- The untimed part neither reads nor writes `TIMER_MODE`. -/
theorem untimedStep_withTimerMode (m : TimerMode) (s : State) :
    untimedStep (s.withTimerMode m) = mapNext (State.withTimerMode m) (untimedStep s) := by
  have hmode : (s.withTimerMode m).mode = s.mode := rfl
  have hload : loadFailed (s.withTimerMode m) = loadFailed s := rfl
  have hfetch : fetch (s.withTimerMode m) = fetch s := rfl
  unfold untimedStep
  rw [hmode, hload, hfetch]
  split_ifs
  · rfl
  · rfl
  · cases decode (fetch s) with
    | ok i => exact exec_withTimerMode m s i
    | error c => rfl

theorem untimedStep_cfg {s t : State} (h : untimedStep s = .next t) : t.cfg = s.cfg := by
  unfold untimedStep at h
  split_ifs at h
  · cases h; rfl
  · cases hdecode : decode (fetch s) with
    | ok i => rw [hdecode] at h; exact (exec_invSeen_cfg h).2
    | error c => rw [hdecode] at h; cases h; rfl

/-- Under Decoupled a Step is its untimed part. -/
theorem stepEvent_decoupled {s w : State} (h : untimedStep s = .next w) :
    stepEvent (s.withTimerMode .decoupled) = .next (w.withTimerMode .decoupled) := by
  rw [stepEvent_eq_afterExec, untimedStep_withTimerMode, h]
  exact afterExec_decoupled rfl

/-- Settles O53: both Steps have one untimed part `w`, which is the whole Step under Decoupled (`stepEvent_decoupled`); under
PerStep the timer phase follows it when it did not end in Halted (`afterExec_cases`). -/
theorem perStepIsDecoupledThenDecrement : Obligations.PerStepIsDecoupledThenDecrement := by
  intro s t u hper ht hu
  rw [stepEvent_eq_afterExec] at ht
  obtain ⟨w, hw, hend⟩ := afterExec_cases ht
  have hcfg : w.cfg = s.cfg := untimedStep_cfg hw
  have huw : u = w.withTimerMode .decoupled := Host.Outcome.next.inj (hu.symm.trans (stepEvent_decoupled hw))
  have hback : { u with cfg := s.cfg } = w := by rw [huw, ← hcfg]; rfl
  rw [hback]
  obtain ⟨hmode, rfl⟩ | ⟨hmode, rfl⟩ := hend
  · exact ⟨fun hrun => absurd hmode hrun, fun _ => rfl⟩
  · have hphase : timerPhase w = timerDecrement w := timerPhase_perStep (hcfg ▸ hper)
    rw [hphase]
    exact ⟨fun _ => rfl, fun hhalt => absurd hhalt hmode⟩

end Sys2Proof.Machine

/-! PROOFS. Control flow (spec/41_control_flow.md R90 to R97): jumps, the call and the return with their faults, and the
skips. -/

namespace Sys2Proof.Machine

/-! ### Jumps (R91, R97) -/

/-- An address field is below 4096, so a jump to it does not wrap. -/
theorem wrap12_addr (a : Addr) : wrap12 a.toNat = a.setWidth 16 := by
  apply BitVec.eq_of_toNat_eq
  rw [wrap12_toNat, Nat.mod_eq_of_lt a.isLt, BitVec.toNat_setWidth_of_le (by decide)]

theorem exec_jp (a : Addr) (s : State) :
    exec (.jp a) s = .next { s with pc := a.setWidth 16, mode := .running } := by
  rw [← wrap12_addr]
  rfl

/-- Settles O23: the target is NNN itself (`exec_jp`), which does not wrap. -/
theorem jumpGoesToAddress : Obligations.JumpGoesToAddress := fun nnn => ⟨decode_encode (.jp nnn), exec_jp nnn⟩

/-- Settles O28: the model takes the sum of NNN and V0 modulo 4096 as the rule writes it. -/
theorem jumpWithOffset : Obligations.JumpWithOffset := fun nnn => ⟨decode_encode (.jpV0 nnn), fun _ => rfl⟩

/-! ### The call and the return (R90, R92) -/

section
variable {s : State}

theorem exec_call_push (a : Addr) (h : s.sp.val < 16) :
    exec (.call a) s = .next { s.push (pcPlus s 2) h with pc := a.setWidth 16, mode := .running } := by
  rw [← wrap12_addr]
  exact dif_pos h

theorem exec_call_overflow (a : Addr) (h : s.sp.val = 16) :
    exec (.call a) s = takeFault .stackOverflow (encode (.call a)) s :=
  dif_neg (by omega)

theorem exec_ret_pop (h : s.sp.val ≠ 0) :
    exec .ret s = .next { s.drop with pc := wrap12 s.top.toNat, mode := .running } :=
  if_pos h

theorem exec_ret_underflow (h : s.sp.val = 0) : exec .ret s = takeFault .stackUnderflow (encode .ret) s :=
  if_neg (not_not.mpr h)

theorem State.top_eq_getElem {k : Nat} (hk : k < 16) (h : s.sp.val = k + 1) : s.top = s.stack[k] := by
  simp only [State.top, h, Nat.add_sub_cancel]

/-- The entry on top after a push is the pushed one. -/
theorem State.top_push (w : Word) (h : s.sp.val < 16) : (s.push w h).top = w :=
  (State.top_eq_getElem h rfl).trans (Vector.getElem_set_self h)

end

/-- Settles O22: the entry taken is `STACK[SP - 1]` (`exec_ret_pop`), and an empty stack is the fault. -/
theorem returnPopsAddress : Obligations.ReturnPopsAddress := by
  refine ⟨decode_encode .ret, fun s k hk hsp => ?_, fun s hsp => exec_ret_underflow hsp⟩
  have hpop := exec_ret_pop (s := s) (by omega)
  rw [State.top_eq_getElem hk hsp] at hpop
  refine ⟨_, hpop, ?_, rfl⟩
  rw [State.drop_sp_val, hsp, Nat.add_sub_cancel]

/-- Settles O24: below 16 entries the call pushes (`exec_call_push`), and a full stack is the fault. -/
theorem callPushesReturnAddress : Obligations.CallPushesReturnAddress := by
  refine fun nnn => ⟨decode_encode (.call nnn), ?_, fun s hsp => exec_call_overflow nnn hsp⟩
  rintro s k hk rfl
  exact ⟨_, exec_call_push nnn hk, rfl, rfl⟩

/-- Settles O25: the return takes the entry the call pushed (`State.top_push`), reduced already, so that it does not wrap
again. -/
theorem callThenReturn : Obligations.CallThenReturn := by
  intro s nnn p hsp
  have hpc : wrap12 (s.push (pcPlus s 2) hsp).top.toNat = pcPlus s 2 := by
    rw [State.top_push]
    exact wrap12_self _ (wrap12_lt (s.pc.toNat + 2))
  exact ⟨_, _, exec_call_push nnn hsp, exec_ret_pop (Nat.succ_ne_zero s.sp.val), hpc, rfl⟩

/-! ### Skips (R84, R93 to R96) -/

/-- A skip whose test decides `p` goes on by 4 where `p` holds and by 2 where it does not. -/
theorem completeSkip_of_iff (s : State) {c : Bool} {p : Prop} [Decidable p] (h : c = true ↔ p) :
    completeSkip c s = .next { s with pc := if p then pcPlus s 4 else pcPlus s 2, mode := .running } := by
  by_cases hp : p
  · rw [if_pos hp, h.mpr hp]
    rfl
  · rw [if_neg hp, Bool.eq_false_iff.mpr (mt h.mp hp)]
    rfl

/-- Settles O26: both are skips (`completeSkip_of_iff`), on the test and on its negation. -/
theorem skipsOnImmediate : Obligations.SkipsOnImmediate := fun x nn =>
  ⟨decode_encode (.seImm x nn), decode_encode (.sneImm x nn), fun s =>
    ⟨completeSkip_of_iff s beq_iff_eq, completeSkip_of_iff s bne_iff_ne⟩⟩

theorem isInvalid_of_classDigits {w : Word} {c : InvalidClass} (h : ClassDigits w c) : isInvalid w = true :=
  isInvalid_iff.mpr ⟨c, decode_of_classDigits h⟩

/-- Settles O27: the words by their last digit (`decode_encode`, `ClassDigits`), the two skips by their test
(`completeSkip_of_iff`). -/
theorem skipsOnRegisters : Obligations.SkipsOnRegisters := by
  intro x y
  simp only [encRegReg_of_nibbles]
  refine ⟨decode_encode (.seReg x y), decode_encode (.sneReg x y), fun n hn => ?_, fun s =>
    ⟨completeSkip_of_iff s beq_iff_eq, completeSkip_of_iff s bne_iff_ne⟩⟩
  have htop (o : Nibble) : (fieldTop (encRegReg o x y n)).toNat = o.toNat := by rw [fieldTop_encRegReg]
  have hsel (o : Nibble) : fieldN (encRegReg o x y n) ≠ 0x0#4 := by rwa [fieldN_encRegReg]
  exact ⟨isInvalid_of_classDigits (c := .five) ⟨htop 5, hsel 5⟩,
    isInvalid_of_classDigits (c := .nine) ⟨htop 9, hsel 9⟩⟩

end Sys2Proof.Machine

/-! PROOFS. Register loads and arithmetic (spec/42_alu.md R100 to R110): what the two register writes of the datapath
leave, and its results and flags as the rules' numbers. -/

namespace Sys2Proof.Machine

/-! ### The two register writes (R82) -/

/-- A write of one register completes: that register holds the byte, and only `V`, `pc` and `MODE` changed. -/
theorem writeReg_spec (x : Nibble) (b : Byte) (s : State) :
    ∃ t, writeReg x b s = .next t ∧ t = { s with v := t.v, pc := pcPlus s 2, mode := .running } ∧
      ∀ r, t.getV r = if r = x then b else s.getV r :=
  ⟨_, rfl, rfl, fun r => (State.getV_setV s x r b).trans (by simp only [eq_comm])⟩

/-- A write of one register and then of VF completes: the flag stands in VF whatever `x` is, the byte in `x` otherwise,
and only `V`, `pc` and `MODE` changed. The byte and the flag are given as the rule writes them. -/
theorem writeRegFlag_spec (x : Nibble) (s : State) {b b' : Byte} {c : Bool} {flag : Byte} (hb : b = b')
    (hflag : flagByte c = flag) :
    ∃ t, writeRegFlag x b c s = .next t ∧ t = { s with v := t.v, pc := pcPlus s 2, mode := .running } ∧
      ∀ r, t.getV r = if r = 0xF#4 then flag else if r = x then b' else s.getV r := by
  subst hb hflag
  refine ⟨_, rfl, rfl, fun r => (State.getV_setFlag (s.setV x b) c r).trans ?_⟩
  simp only [State.getV_setV, eq_comm]

/-! ### Results and flags (R13, R106 to R110) -/

theorem flagByte_decide (p : Prop) [Decidable p] : flagByte (decide p) = if p then 1#8 else 0#8 := by
  simp only [flagByte, decide_eq_true_eq]

/-- The difference of two bytes, modulo 256, is that of their numbers. -/
theorem subByte_eq_ofInt (a b : Byte) : subByte a b = BitVec.ofInt 8 ((a.toNat : Int) - b.toNat) := by
  apply BitVec.eq_of_toNat_eq
  simp only [subByte, BitVec.toNat_ofNat, BitVec.toNat_ofInt]
  omega

theorem shrByte_eq_ofNat (a : Byte) : shrByte a = BitVec.ofNat 8 (a.toNat / 2) := by
  apply BitVec.eq_of_toNat_eq
  simp only [shrByte, BitVec.toNat_ushiftRight, Nat.shiftRight_eq_div_pow, BitVec.toNat_ofNat]
  omega

theorem shlByte_eq_ofNat (a : Byte) : shlByte a = BitVec.ofNat 8 (a.toNat * 2 % 256) := by
  apply BitVec.eq_of_toNat_eq
  simp only [shlByte, BitVec.toNat_shiftLeft, Nat.shiftLeft_eq, BitVec.toNat_ofNat]
  omega

/-- A bit of a byte as a flag is the digit of its number there. -/
theorem flagByte_getLsbD (a : Byte) (k : Nat) : flagByte (a.getLsbD k) = BitVec.ofNat 8 (a.toNat / 2 ^ k % 2) := by
  rw [BitVec.getLsbD, Nat.testBit_eq_decide_div_mod_eq, flagByte_decide]
  rcases Nat.mod_two_eq_zero_or_one (a.toNat / 2 ^ k) with h | h <;> simp [h]

theorem flagByte_shrOut (a : Byte) : flagByte (shrOut a) = BitVec.ofNat 8 (a.toNat % 2) :=
  (flagByte_getLsbD a 0).trans (by rw [pow_zero, Nat.div_one])

/-- Bit 7 is the top bit, so that nothing is left above it to take a remainder of. -/
theorem flagByte_shlOut (a : Byte) : flagByte (shlOut a) = BitVec.ofNat 8 (a.toNat / 128) := by
  have htop : a.toNat / 2 ^ 7 % 2 = a.toNat / 128 := by have := a.isLt; omega
  exact (flagByte_getLsbD a 7).trans (by rw [htop])

/-! ### One register and no flag (R100 to R105) -/

/-- Settles O29: both write one register (`writeReg_spec`), the sum taken modulo 256 as the rule writes it. -/
theorem loadAndAddImmediate : Obligations.LoadAndAddImmediate := fun x nn =>
  ⟨decode_encode (.ldImm x nn), decode_encode (.addImm x nn), fun s => ⟨writeReg_spec x _ s, writeReg_spec x _ s⟩⟩

/-- Settles O30: one register is written (`writeReg_spec`), with the byte of the other. -/
theorem registerMove : Obligations.RegisterMove := by
  intro x y
  rw [encRegReg_of_nibbles]
  exact ⟨decode_encode (.ldReg x y), fun s => writeReg_spec x _ s⟩

/-- Settles O31: each writes one register (`writeReg_spec`), VF only where it is that one. -/
theorem bitwiseOperations : Obligations.BitwiseOperations := by
  intro x y
  simp only [encRegReg_of_nibbles]
  exact ⟨decode_encode (.orReg x y), decode_encode (.andReg x y), decode_encode (.xorReg x y), fun s =>
    ⟨writeReg_spec x _ s, writeReg_spec x _ s, writeReg_spec x _ s⟩⟩

/-! ### One register and then the flag (R106 to R110) -/

/-- Settles O32: the sum, then the carry (`writeRegFlag_spec`). -/
theorem addWithCarry : Obligations.AddWithCarry := by
  intro x y
  rw [encRegReg_of_nibbles]
  exact ⟨decode_encode (.addReg x y), fun s => writeRegFlag_spec x s rfl (flagByte_decide _)⟩

/-- Settles O33: the difference (`subByte_eq_ofInt`), then the no-borrow flag (`writeRegFlag_spec`); 8XY7 takes the
operands the other way round. -/
theorem subtractWithNoBorrow : Obligations.SubtractWithNoBorrow := by
  intro x y
  simp only [encRegReg_of_nibbles]
  exact ⟨decode_encode (.sub x y), decode_encode (.subn x y), fun s =>
    ⟨writeRegFlag_spec x s (subByte_eq_ofInt _ _) (flagByte_decide _),
      writeRegFlag_spec x s (subByte_eq_ofInt _ _) (flagByte_decide _)⟩⟩

/-- Settles O34: the shifted byte (`shrByte_eq_ofNat`, `shlByte_eq_ofNat`), then the bit moved out (`writeRegFlag_spec`). -/
theorem shiftsByOne : Obligations.ShiftsByOne := by
  intro x y
  simp only [encRegReg_of_nibbles]
  exact ⟨decode_encode (.shr x y), decode_encode (.shl x y), fun s =>
    ⟨writeRegFlag_spec x s (shrByte_eq_ofNat _) (flagByte_shrOut _),
      writeRegFlag_spec x s (shlByte_eq_ofNat _) (flagByte_shlOut _)⟩⟩

end Sys2Proof.Machine

/-! PROOFS. The index register and the memory transfers (spec/43_index_memory.md R120 to R125): what each leaves in
range, and the fault past the top of memory. -/

namespace Sys2Proof.Machine

/-! ### The index register (R120 to R122) -/

/-- Settles O36: an address field does not wrap (`wrap12_addr`). -/
theorem loadIndex : Obligations.LoadIndex := by
  refine fun nnn => ⟨decode_encode (.ldI nnn), fun s => ?_⟩
  rw [← wrap12_addr]
  rfl

/-- Settles O37: `I` takes the sum modulo 4096 as the rule writes it, and VF, written last, whether it passed the top
(`State.getV_setFlag`). -/
theorem addToIndex : Obligations.AddToIndex := by
  refine fun x => ⟨decode_encode (.addIVx x), fun s => ⟨_, rfl, rfl, fun r => ?_⟩⟩
  rw [← flagByte_decide]
  exact State.getV_setFlag _ _ r

/-- Five times a byte is at most 1275 (R122). -/
theorem wrap12_five_mul (b : Byte) : wrap12 (b.toNat * 5) = BitVec.ofNat 16 (b.toNat * 5) := by
  have hlt : b.toNat * 5 < 4096 := by have := b.isLt; omega
  rw [wrap12, Nat.mod_eq_of_lt hlt]

/-- Settles O38: the product does not wrap (`wrap12_five_mul`). -/
theorem fontGlyphAddress : Obligations.FontGlyphAddress := by
  refine fun x => ⟨decode_encode (.ldFVx x), fun s => ?_⟩
  rw [← wrap12_five_mul]
  rfl

/-! ### Transfers in range and past the top (R123 to R125, R150) -/

section
variable {s : State} {k : Nat}

theorem pastTop_eq_true_iff : pastTop s k = true ↔ s.i.toNat + k > 0xFFF := decide_eq_true_iff

theorem ite_pastTop_of_fits {r q : Result} (h : s.i.toNat + k ≤ 0xFFF) : (if pastTop s k then q else r) = r :=
  if_neg (mt pastTop_eq_true_iff.mp h.not_gt)

theorem ite_pastTop_of_gt {r q : Result} (h : s.i.toNat + k > 0xFFF) : (if pastTop s k then q else r) = q :=
  if_pos (pastTop_eq_true_iff.mpr h)

end

/-! ### Stores (R123, R124) -/

/-- Settles O39: in range the three digits are stored from `I` on (`Memory.read_writeBytes_inside`) and nothing else
(`read_store_outside`). -/
theorem storeDecimalDigits : Obligations.StoreDecimalDigits := by
  refine fun x => ⟨decode_encode (.ldBVx x), fun s hin => ?_, fun _ => ite_pastTop_of_gt⟩
  have hread := Memory.read_writeBytes_inside s.mem s.i.toNat (bcdDigits (s.getV x)) (by decide : 3 ≤ 4096)
  refine ⟨_, ite_pastTop_of_fits hin, rfl, hread 0 (by decide : 0 < 3), hread 1 (by decide : 1 < 3),
    hread 2 (by decide : 2 < 3), fun a ha hout => ?_⟩
  exact read_store_outside s.mem s.i.toNat (bcdDigits (s.getV x)) (Nat.succ_le_succ hin) ha hout

/-- Settles O40: in range the registers up to `X` are stored from `I` on (`read_store_blockRegs`) and nothing else
(`read_store_outside`). -/
theorem storeRegisters : Obligations.StoreRegisters := by
  refine fun x => ⟨decode_encode (.ldMemVx x), fun s hin => ?_, fun _ => ite_pastTop_of_gt⟩
  refine ⟨_, ite_pastTop_of_fits hin, rfl, fun k => read_store_blockRegs s.mem s.i.toNat s x, fun a ha hout => ?_⟩
  have hlen := blockRegs_length s x
  exact read_store_outside s.mem s.i.toNat (blockRegs s x) (by omega) ha (by omega)

/-! ### Loads (R125) -/

/-- A block load takes register `r` from `MEM[I + r]` up to `X` and leaves the registers above it. -/
theorem getV_setBlock_blockBytes (s : State) (x r : Nibble) :
    (s.setBlock (blockBytes s x)).getV r =
      if r.toNat ≤ x.toNat then Memory.read s.mem (s.i.toNat + r.toNat) else s.getV r := by
  have hfit : (blockBytes s x).length ≤ 16 := by rw [blockBytes_length]; exact x.isLt
  rw [State.getV_setBlock s (blockBytes s x) hfit r]
  simp [blockBytes]

/-- Settles O41: in range the block load (`getV_setBlock_blockBytes`). -/
theorem loadRegisters : Obligations.LoadRegisters := fun x =>
  ⟨decode_encode (.ldVxMem x),
    fun s hin => ⟨_, ite_pastTop_of_fits hin, rfl, getV_setBlock_blockBytes s x⟩, fun _ => ite_pastTop_of_gt⟩

/-- Settles O42: FX55 leaves `V[r]` at `MEM[I + r]` and keeps `I` (`storeRegisters`), and from there FX65 takes register
`r` (`loadRegisters`), whatever it held. -/
theorem storeThenLoadRegisters : Obligations.StoreThenLoadRegisters := by
  intro s t u x w hin hstore hload r hr
  obtain ⟨-, hstores, -⟩ := storeRegisters x
  obtain ⟨-, hloads, -⟩ := loadRegisters x
  obtain ⟨t', hstore', hframe, hstored, -⟩ := hstores s hin
  obtain rfl : t = t' := Host.Outcome.next.inj (hstore.symm.trans hstore')
  have hi : t.i = s.i := by rw [hframe]
  obtain ⟨u', hload', -, hloaded⟩ := hloads { t with v := w } (by rw [hi]; exact hin)
  obtain rfl : u = u' := Host.Outcome.next.inj (hload.symm.trans hload')
  calc u.getV r = Memory.read t.mem (t.i.toNat + r.toNat) := (hloaded r).trans (if_pos hr)
    _ = s.getV (regOfNat r.toNat) := by rw [hi]; exact hstored r.toNat hr
    _ = s.getV r := by rw [regOfNat_toNat]

end Sys2Proof.Machine

/-! PROOFS. The framebuffer clear and the sprite draw (spec/44_display.md R130 to R132): a draw toggles the cells on which
its lit bits land, none twice, so that the order of the loop does not show. -/

namespace Sys2Proof.Machine

/-! ### The clear (R130) -/

/-- Settles O43: every cell of the cleared framebuffer is false (`Framebuffer.cell_clear`). -/
theorem clearScreen : Obligations.ClearScreen :=
  ⟨decode_encode .cls, fun _ => ⟨_, rfl, rfl, fun k _ => Framebuffer.cell_clear k⟩⟩

/-! ### The cells of a sprite (R131, R132) -/

theorem mem_rowCells (b : Byte) (vx vy r k : Nat) :
    k ∈ rowCells b vx vy r ↔ ∃ c < 8, b.getLsbD (7 - c) = true ∧ k = cellIndex (vx + c) (vy + r) := by
  simp [rowCells, eq_comm (a := k)]

theorem mem_spriteCells (s : State) (vx vy n k : Nat) :
    k ∈ spriteCells s vx vy n ↔ ∃ r < n, k ∈ rowCells (Memory.read s.mem (s.i.toNat + r)) vx vy r := by
  simp [spriteCells]

/-- The cells a draw toggles are those on which a lit bit lands. -/
theorem mem_spriteCells_iff_litCell (s : State) (x y n : Nibble) (k : Nat) :
    k ∈ spriteCells s (s.getV x).toNat (s.getV y).toNat n.toNat ↔ litCell s x y n k := by
  simp only [mem_spriteCells, mem_rowCells, litCell, cellIndex]
  constructor
  · rintro ⟨r, hr, c, hc, hbit, hk⟩
    exact ⟨r, c, hr, hc, hbit, hk⟩
  · rintro ⟨r, c, hr, hc, hbit, hk⟩
    exact ⟨r, hr, c, hc, hbit, hk⟩

theorem litCell_lt {s : State} {x y n : Nibble} {k : Nat} (h : litCell s x y n k) : k < 2048 :=
  spriteCells_lt s _ _ _ k ((mem_spriteCells_iff_litCell s x y n k).mpr h)

/-- A row's cells differ: its eight columns are fewer than the 64 of the screen. -/
theorem rowCells_nodup (b : Byte) (vx vy r : Nat) : (rowCells b vx vy r).Nodup := by
  rw [List.Nodup, rowCells, List.pairwise_filterMap]
  refine List.nodup_range.pairwise_of_forall_ne fun c hc c' hc' hne k hk k' hk' hkk => ?_
  simp only [Option.ite_none_right_eq_some, Option.some.injEq] at hk hk'
  obtain ⟨-, rfl⟩ := hk
  obtain ⟨-, rfl⟩ := hk'
  obtain ⟨hcol, -⟩ := (cellIndex_inj _ _ _ _).mp hkk
  rw [List.mem_range] at hc hc'
  omega

/-- No cell is toggled twice in one draw (R132): the at most 15 rows of a sprite are fewer than the 32 of the screen. -/
theorem spriteCells_nodup (s : State) (vx vy : Nat) (n : Nibble) : (spriteCells s vx vy n.toNat).Nodup := by
  refine List.nodup_flatMap.mpr ⟨fun r _ => rowCells_nodup _ vx vy r, ?_⟩
  refine List.nodup_range.pairwise_of_forall_ne fun r hr r' hr' hne k hk hk' => ?_
  obtain ⟨c, -, -, rfl⟩ := (mem_rowCells _ _ _ _ _).mp hk
  obtain ⟨c', -, -, hkk⟩ := (mem_rowCells _ _ _ _ _).mp hk'
  obtain ⟨-, hrow⟩ := (cellIndex_inj _ _ _ _).mp hkk
  have hn := n.isLt
  rw [List.mem_range] at hr hr'
  omega

/-! ### A draw by its lit cells (R131, R132) -/

section
variable (s : State) (x y n : Nibble)

/-- The loop of R131 over the cells of a sprite, as none comes twice (`drawCells_spec`). -/
theorem drawSprite_spec :
    (∀ k < 2048, (drawSprite x y n.toNat s).1.cell k =
      (s.fb.cell k ^^ decide (k ∈ spriteCells s (s.getV x).toNat (s.getV y).toNat n.toNat))) ∧
      (drawSprite x y n.toNat s).2 = (spriteCells s (s.getV x).toNat (s.getV y).toNat n.toNat).any s.fb.cell :=
  drawCells_spec _ s.fb false (spriteCells_lt s _ _ _) (spriteCells_nodup s _ _ n)

/-- A draw flips the lit cells and no other. -/
theorem drawSprite_cell {k : Nat} (hk : k < 2048) :
    (litCell s x y n k → (drawSprite x y n.toNat s).1.cell k = !s.fb.cell k) ∧
      (¬ litCell s x y n k → (drawSprite x y n.toNat s).1.cell k = s.fb.cell k) := by
  obtain ⟨hcells, -⟩ := drawSprite_spec s x y n
  rw [← mem_spriteCells_iff_litCell, hcells k hk]
  exact ⟨fun hmem => by simp [hmem], fun hmem => by simp [hmem]⟩

/-- The collision bit of a draw says whether a lit cell was set. -/
theorem drawSprite_collision :
    (drawSprite x y n.toNat s).2 = true ↔ ∃ k, litCell s x y n k ∧ s.fb.cell k = true := by
  obtain ⟨-, hcoll⟩ := drawSprite_spec s x y n
  simp only [← mem_spriteCells_iff_litCell, hcoll, List.any_eq_true]

/-- A draw completes: the framebuffer and VF are those of `drawSprite`, and beside them only REDRAW, `pc` and `MODE`
changed. -/
theorem exec_drw_spec :
    ∃ t, exec (.drw x y n) s = .next t ∧
      t = { s with v := t.v, fb := t.fb, redraw := s.redraw || decide (n.toNat > 0), pc := pcPlus s 2,
                   mode := .running } ∧
      t.fb = (drawSprite x y n.toNat s).1 ∧
      ∀ r, t.getV r = if r = 0xF#4 then flagByte (drawSprite x y n.toNat s).2 else s.getV r :=
  ⟨_, rfl, rfl, rfl, State.getV_setFlag _ _⟩

end

/-- Settles O44: the framebuffer and VF are those of `drawSprite` (`exec_drw_spec`), said by the lit cells
(`drawSprite_cell`, `drawSprite_collision`). -/
theorem drawSpriteByCells : Obligations.DrawSpriteByCells := by
  intro x y n
  rw [encRegReg_of_nibbles]
  refine ⟨decode_encode (.drw x y n), fun s => ?_⟩
  obtain ⟨t, hexec, hframe, hfb, hreg⟩ := exec_drw_spec s x y n
  have hflag := drawSprite_collision s x y n
  refine ⟨t, hexec, hframe, fun k hk => ?_, fun r hr => (hreg r).trans (if_neg hr), fun hset => ?_, fun hclear => ?_⟩
  · rw [hfb]
    exact drawSprite_cell s x y n hk
  · rw [hreg, if_pos rfl, hflag.mpr hset]
    rfl
  · rw [hreg, if_pos rfl, Bool.eq_false_iff.mpr (mt hflag.mp hclear)]
    rfl

/-! ### A second draw (R132) -/

/-- Settles O45: the second draw lights the cells of the first, as it reads the same registers, `I` and memory, and each
lit cell is flipped back from what the first made of it (`drawSpriteByCells`). -/
theorem drawTwiceRestores : Obligations.DrawTwiceRestores := by
  intro s t u x y n hfirst hsecond
  obtain ⟨-, hdraw⟩ := drawSpriteByCells x y n
  obtain ⟨t', hfirst', hframe, hcells, -⟩ := hdraw s
  obtain rfl : t = t' := Host.Outcome.next.inj (hfirst.symm.trans hfirst')
  obtain ⟨u', hsecond', -, hcells', -, hset, hclear⟩ := hdraw { t with v := s.v }
  obtain rfl : u = u' := Host.Outcome.next.inj (hsecond.symm.trans hsecond')
  have hlit (k : Nat) : litCell { t with v := s.v } x y n k ↔ litCell s x y n k := by rw [hframe]; exact Iff.rfl
  simp only [hlit] at hcells' hset hclear
  have hcollides : (∃ k, litCell s x y n k ∧ t.fb.cell k = true) ↔ ∃ k, litCell s x y n k ∧ s.fb.cell k = false := by
    refine exists_congr fun k => and_congr_right fun hk => ?_
    obtain ⟨hflip, -⟩ := hcells k (litCell_lt hk)
    rw [hflip hk, Bool.not_eq_true']
  refine ⟨Framebuffer.eq_of_cells _ _ fun k hk => ?_, ?_⟩
  · obtain ⟨hflip, hkeep⟩ := hcells k hk
    obtain ⟨hflip', hkeep'⟩ := hcells' k hk
    by_cases hlands : litCell s x y n k
    · rw [hflip' hlands, hflip hlands, Bool.not_not]
    · rw [hkeep' hlands, hkeep hlands]
  · rw [← hcollides]
    refine ⟨fun hvf => by_contra fun hnone => ?_, hset⟩
    exact absurd (hvf.symm.trans (hclear hnone)) (by decide)

end Sys2Proof.Machine

/-! PROOFS. Keypad and timer instructions (spec/45_keypad_timer.md R140 to R145): the two key skips and their fault, the
wait of FX0A and the key it takes, and the moves between a register and a timer. -/

namespace Sys2Proof.Machine

/-! ### The key that FX0A takes (R143, log 5) -/

section
variable {s : State} {k : Nibble} {ks : List Nibble}

theorem pressedKeys_eq_nil_iff : pressedKeys s = [] ↔ ∀ k, s.keyDown k = false := by
  simp only [List.eq_nil_iff_forall_not_mem, mem_pressedKeys, Bool.not_eq_true]

/-- The pressed keys stand lowest first. -/
theorem pressedKeys_head_le (hkeys : pressedKeys s = k :: ks) {j : Nibble} (hj : s.keyDown j = true) :
    k.toNat ≤ j.toNat := by
  have hsorted := hkeys ▸ pressedKeys_sorted s
  have hmem : j ∈ k :: ks := hkeys ▸ (mem_pressedKeys s j).mpr hj
  obtain rfl | htail := List.mem_cons.mp hmem
  · exact le_rfl
  · exact (List.rel_of_pairwise_cons hsorted htail).le

theorem selectKey_lowest (h : s.cfg.keySelect = .lowest) : (selectKey k ks s).1 = k := by
  simp only [selectKey, h]

/-- Under Any the key KEYPICK names is taken, if it is pressed. -/
theorem selectKey_any_named (h : s.cfg.keySelect = .any) {p : Nibble} (hp : s.keyPick.head? = some p)
    (hmem : p ∈ k :: ks) : (selectKey k ks s).1 = p := by
  obtain ⟨rest, hpick⟩ := List.head?_eq_some_iff.mp hp
  simp only [selectKey, h, drawKey, hpick, if_pos hmem]

/-! ### FX0A (R87, R143) -/

theorem exec_ldVxK_none (x : Nibble) (h : pressedKeys s = []) :
    exec (.ldVxK x) s = .next { s with mode := .awaitingKey } := by
  change execLdVxK x s = awaitKey s
  simp only [execLdVxK, h]

/-- With a key pressed FX0A is a register write in the state after the pick. -/
theorem exec_ldVxK_pressed (x : Nibble) (h : pressedKeys s = k :: ks) :
    exec (.ldVxK x) s = writeReg x ((selectKey k ks s).1.setWidth 8) (selectKey k ks s).2 := by
  change execLdVxK x s = _
  simp only [execLdVxK, h, writeReg]

end

/-- Settles O48: `selectKey` takes one of the pressed keys and changes nothing but the record of the input
(`selectKey_spec`). -/
theorem waitForKey : Obligations.WaitForKey := by
  refine fun x => ⟨decode_encode (.ldVxK x), fun s hnone => exec_ldVxK_none x (pressedKeys_eq_nil_iff.mpr hnone), ?_⟩
  intro s ⟨j, hj⟩
  obtain ⟨k, ks, hkeys⟩ := List.exists_cons_of_ne_nil (List.ne_nil_of_mem ((mem_pressedKeys s j).mpr hj))
  have hpressed (p : Nibble) : p ∈ k :: ks ↔ s.keyDown p = true := hkeys ▸ mem_pressedKeys s p
  obtain ⟨htaken, hafter⟩ := selectKey_spec k ks s
  have hexec := exec_ldVxK_pressed x hkeys
  rw [hafter] at hexec
  refine ⟨_, (selectKey k ks s).1, hexec, rfl, fun r => ?_, (hpressed _).mp htaken, ?_, ?_⟩
  · exact (State.getV_setV s x r _).trans (by simp only [eq_comm])
  · intro hlowest
    rw [selectKey_lowest hlowest]
    exact fun _ => pressedKeys_head_le hkeys
  · exact fun hany p hp hdown => selectKey_any_named hany hp ((hpressed p).mpr hdown)

/-! ### The key skips (R140, R141) -/

theorem State.keyAt_eq_getElem (s : State) {vx : Byte} {k : Nat} (hk : k < 16) (h : vx.toNat = k) :
    s.keyAt vx = s.key[k] := by
  have hindex : (vx.setWidth 4).toNat = k := by rw [BitVec.toNat_setWidth, h, Nat.mod_eq_of_lt hk]
  simp only [State.keyAt, State.keyDown, hindex]

section
variable {vx : Byte}

theorem ite_noSuchKey_of_le {r q : Result} (h : vx.toNat ≤ 0xF) : (if noSuchKey vx then q else r) = r :=
  if_neg (mt of_decide_eq_true h.not_gt)

theorem ite_noSuchKey_of_gt {r q : Result} (h : vx.toNat > 0xF) : (if noSuchKey vx then q else r) = q :=
  if_pos (decide_eq_true h)

end

/-- Settles O46: up to 0xF both are skips (`completeSkip_of_iff`), on `KEY[k]` and on its negation; past it both fault. -/
theorem skipsOnKey : Obligations.SkipsOnKey := by
  refine fun x => ⟨decode_encode (.skp x), decode_encode (.sknp x), fun s k hk hvx => ?_, fun s hgt =>
    ⟨ite_noSuchKey_of_gt hgt, ite_noSuchKey_of_gt hgt⟩⟩
  have hkey := s.keyAt_eq_getElem hk hvx
  have hle : (s.getV x).toNat ≤ 0xF := hvx ▸ Nat.le_of_lt_succ hk
  rw [← hkey]
  exact ⟨(ite_noSuchKey_of_le hle).trans (completeSkip_of_iff s Iff.rfl),
    (ite_noSuchKey_of_le hle).trans (completeSkip_of_iff s (Bool.not_eq_true' _).to_iff)⟩

/-! ### The timers (R142, R144, R145) -/

/-- Settles O47: one register is written (`writeReg_spec`), with the byte of `DT`. -/
theorem readDelayTimer : Obligations.ReadDelayTimer := fun x =>
  ⟨decode_encode (.ldVxDt x), fun s => writeReg_spec x s.dt s⟩

/-- Settles O49: each completes (`completeNext`) with one timer taken from `V[X]`, as the model writes it. -/
theorem setTimers : Obligations.SetTimers := fun x =>
  ⟨decode_encode (.ldDtVx x), decode_encode (.ldStVx x), fun _ => ⟨rfl, rfl⟩⟩

end Sys2Proof.Machine

/-! PROOFS. Faults, timers and the host's ports (spec/60_exceptions.md R150 to R156, R160 to R165): the fault table, the
condition of a fault that stands until Reset, the countdown and its beep, the Tick, the key and clear events, and the
Load. -/

namespace Sys2Proof.Machine

/-! ### The fault table (R150, R152) -/

/-- Settles O20: the answer of every instruction (`exec_answers`). -/
theorem everyInstructionAnswers : Obligations.EveryInstructionAnswers := exec_answers

/-- An instruction for which R150 has a code ends Halted with that code. -/
theorem exec_halts_of_faultOf {i : Instr} {s : State} {code : FaultCode} (hf : faultOf i s = code)
    (hcode : code ≠ .none) : ∃ t, exec i s = .next t ∧ t.faultCode = code ∧ t.mode = .halted := by
  subst hf
  exact ⟨_, exec_of_fault hcode, rfl, rfl⟩

/-- No instruction writes `FAULT_CODE` on its way to completing. -/
theorem Writes.faultCode {i : Instr} {s u : State} (hu : Writes s i u) : u.faultCode = s.faultCode := by
  cases hu <;> rfl

/-- Where R150 has no fault, an instruction waits or completes: neither is Halted, and neither records a fault. -/
theorem exec_of_noFault {i : Instr} {s t : State} (h : exec i s = .next t) (hf : faultOf i s = .none) :
    t.mode ≠ .halted ∧ t.faultCode = s.faultCode := by
  cases exec_effect h with
  | fault hfault => exact absurd hf hfault
  | wait _ => exact ⟨Mode.noConfusion, rfl⟩
  | done _ hu _ _ => exact ⟨Mode.noConfusion, hu.faultCode⟩

theorem faultCodeBits_lt (c : FaultCode) : (faultCodeBits c).toNat < 5 := by
  cases c <;> decide

/-- Settles O18: each row of the table is a value of `faultOf`, which `exec` follows (`exec_halts_of_faultOf`,
`exec_of_noFault`). -/
theorem faultTable : Obligations.FaultTable := by
  exact ⟨fun s a hsp => exec_halts_of_faultOf (if_pos hsp) (by decide),
    fun s hsp => exec_halts_of_faultOf (if_pos hsp) (by decide),
    fun s x hi => exec_halts_of_faultOf (if_pos hi) (by decide),
    fun s x hi => ⟨exec_halts_of_faultOf (if_pos hi) (by decide), exec_halts_of_faultOf (if_pos hi) (by decide)⟩,
    fun s x hvx => ⟨exec_halts_of_faultOf (if_pos hvx) (by decide), exec_halts_of_faultOf (if_pos hvx) (by decide)⟩,
    fun i s t => exec_of_noFault, fun op s => ⟨rfl, rfl⟩, rfl, rfl, rfl, rfl, rfl, faultCodeBits_lt⟩

/-! ### The condition of a fault stands until Reset (R151, R153) -/

section
variable {s : State}

theorem State.FaultStands.of_faultCode_none (h : s.faultCode = .none) : s.FaultStands := by
  rw [State.FaultStands, h]
  trivial

/-- Fault entry under a condition `p` of R150: it is enough that the condition it records stands where `p` holds. -/
theorem State.FaultStands.of_ite {p : Prop} [Decidable p] {code : FaultCode} {pc op : Word} {m : Mode}
    (h : p → State.FaultStands { s with faultCode := code, faultPc := pc, faultOpcode := op, mode := m }) :
    State.FaultStands
      { s with faultCode := if p then code else .none, faultPc := pc, faultOpcode := op, mode := m } := by
  by_cases hp : p
  · rw [if_pos hp]
    exact h hp
  · exact .of_faultCode_none (if_neg hp)

/-- Fault entry records the instruction and the condition of R150 that holds of the operands, which it leaves as they
are. -/
theorem faultStands_of_faultEntry (i : Instr) (s : State) :
    State.FaultStands
      { s with faultCode := faultOf i s, faultPc := s.pc, faultOpcode := encode i, mode := .halted } := by
  cases i with
  | call a => exact .of_ite fun hsp => ⟨hsp, a, rfl⟩
  | ret => exact .of_ite fun hsp => ⟨hsp, rfl⟩
  | ldBVx x => exact .of_ite fun hi => ⟨x, .inl ⟨rfl, hi⟩⟩
  | ldMemVx x => exact .of_ite fun hi => ⟨x, .inr ⟨.inl rfl, hi⟩⟩
  | ldVxMem x => exact .of_ite fun hi => ⟨x, .inr ⟨.inr rfl, hi⟩⟩
  | skp x => exact .of_ite fun hvx => ⟨x, .inl rfl, hvx⟩
  | sknp x => exact .of_ite fun hvx => ⟨x, .inr rfl, hvx⟩
  | _ => exact .of_faultCode_none rfl

/-- An instruction run with no fault on record ends with none, or with one whose condition stands. -/
theorem exec_faultStands {i : Instr} {t : State} (h : exec i s = .next t) (hs : s.faultCode = .none) :
    t.FaultStands := by
  by_cases hf : faultOf i s = .none
  · exact .of_faultCode_none ((exec_of_noFault h hf).2.trans hs)
  · obtain rfl := Host.Outcome.next.inj ((exec_of_fault hf).symm.trans h)
    exact faultStands_of_faultEntry i s

/-- The timers are no operand of a fault. -/
theorem State.FaultStands.timerPhase (h : s.FaultStands) : (timerPhase s).FaultStands := by
  rw [timerPhase_frame]
  exact h

/-- A Step keeps a fault on record as it is in Halted, and elsewhere starts with none (`State.Inv.noFault`). -/
theorem stepEvent_faultStands {t : State} (hinv : s.Inv) (h : s.FaultStands) (hstep : stepEvent s = .next t) :
    t.FaultStands := by
  obtain ⟨_, rfl⟩ | ⟨hm, _, ⟨i, u, _, hexec, hend⟩ | ⟨_, _, rfl⟩⟩ := stepEvent_cases hstep
  · exact h
  · have hu : u.FaultStands := exec_faultStands hexec (hinv.noFault hm)
    obtain ⟨_, rfl⟩ | ⟨_, rfl⟩ := hend
    · exact hu
    · exact hu.timerPhase
  · have hreport : (reportInvalid (fetch s) s).faultCode = .none := hinv.noFault hm
    exact (State.FaultStands.of_faultCode_none hreport).timerPhase

/-- Reset ends the record of a fault, and no other event of the host writes it or an operand of it. -/
theorem applyEvent_faultStands {e : Event} {t : State} (hinv : s.Inv) (h : s.FaultStands)
    (happly : applyEvent e s = .next t) : t.FaultStands := by
  by_cases hstep : e = .step
  · subst hstep
    exact stepEvent_faultStands hinv h happly
  by_cases hreset : e = .reset
  · subst hreset
    cases happly
    exact .of_faultCode_none rfl
  · rw [hostEvent_frame hreset hstep happly]
    exact h

end

/-- Settles O5: one step is a Step (`stepEvent_faultStands`) or the agenda's first event (`applyEvent_faultStands`), and
the agenda is no operand. -/
theorem faultConditionStandsUntilReset : Obligations.FaultConditionStandsUntilReset := by
  intro s t hinv h hstep
  obtain ⟨_, hrun⟩ | ⟨e, rest, _, happly⟩ := step_cases hstep
  · exact stepEvent_faultStands hinv h hrun
  · have hrest : State.Inv { s with agenda := rest } := { hinv with }
    exact applyEvent_faultStands hrest h happly

/-! ### The countdown and the Tick (R160 to R163) -/

theorem countDown_eq_ofNat (t : Byte) : countDown t = BitVec.ofNat 8 (t.toNat - 1) := by
  rw [← countDown_toNat, BitVec.ofNat_toNat, BitVec.setWidth_eq]

theorem beepDue_whileNonzero (st : Byte) : beepDue .whileNonzero st = decide (st.toNat ≠ 0) :=
  decide_eq_decide.mpr BitVec.toNat_inj.symm.not

theorem beepDue_onExpiry (st : Byte) : beepDue .onExpiry st = decide (st.toNat = 1) :=
  decide_eq_decide.mpr BitVec.toNat_inj.symm

/-- Settles O50: the countdown as a number (`countDown_eq_ofNat`), the beep logic policy by policy, on the old ST. -/
theorem timerDecrementAndBeep : Obligations.TimerDecrementAndBeep := by
  intro s
  rw [timerDecrement, countDown_eq_ofNat, countDown_eq_ofNat]
  cases s.cfg.beepPolicy with
  | whileNonzero => rw [beepDue_whileNonzero]
  | onExpiry => rw [beepDue_onExpiry]

/-- Settles O51, by induction on the number of decrements, the first of which is `countDown_toNat`. -/
theorem timersReachZero : Obligations.TimersReachZero := by
  intro n
  induction n with
  | zero => exact fun s => ⟨rfl, rfl⟩
  | succ n ih =>
    intro s
    obtain ⟨hdt, hst⟩ := ih (timerDecrement s)
    rw [timerDecrement_dt, countDown_toNat] at hdt
    rw [timerDecrement_st, countDown_toNat] at hst
    rw [decrementTimes, hdt, hst]
    omega

theorem tickEvent_decoupled {s : State} (h : s.cfg.timerMode = .decoupled) : tickEvent s = timerDecrement s := by
  simp only [tickEvent, h]

theorem tickEvent_perStep {s : State} (h : s.cfg.timerMode = .perStep) : tickEvent s = s := by
  simp only [tickEvent, h]

/-- Settles O52: the Tick event reads `TIMER_MODE` and no `MODE` (`tickEvent_decoupled`, `tickEvent_perStep`). -/
theorem tickByTimerMode : Obligations.TickByTimerMode := fun _ =>
  ⟨fun h => congrArg Host.Outcome.next (tickEvent_decoupled h),
    fun h => congrArg Host.Outcome.next (tickEvent_perStep h)⟩

/-! ### The key event and the clears (R164, R165, R187) -/

theorem keyDown_hostKeyEvent (k j : Nibble) (b : Bool) (s : State) :
    (hostKeyEvent k b s).keyDown j = if j = k then b else s.keyDown j := by
  simp [hostKeyEvent, State.keyDown, Vector.getElem_set, BitVec.toNat_inj, eq_comm]

/-- Settles O56: a key event writes one entry of the keypad (`keyDown_hostKeyEvent`), a clear one flag. -/
theorem hostPortEvents : Obligations.HostPortEvents :=
  ⟨fun s k b => ⟨_, rfl, rfl, fun j => keyDown_hostKeyEvent k j b s⟩, fun _ => ⟨rfl, rfl⟩⟩

/-! ### Load (R156, R182 to R184) -/

section
variable {p : List Byte}

theorem programWellFormed_iff : programWellFormed p = true ↔ p.length ≤ 3584 := decide_eq_true_iff

theorem loadOutcome_of_fits (h : p.length ≤ 3584) : loadOutcome (.bytes p) = .ok :=
  if_pos (programWellFormed_iff.mpr h)

theorem loadEvent_of_fits (h : p.length ≤ 3584) (s : State) :
    loadEvent (.bytes p) s = { s with mem := Memory.writeBytes s.mem programBase p, loadResult := some .ok } :=
  if_pos (programWellFormed_iff.mpr h)

theorem loadOutcome_of_too_long (h : p.length > 3584) : loadOutcome (.bytes p) = .programOutOfRange :=
  if_neg (mt programWellFormed_iff.mp h.not_ge)

theorem loadEvent_of_too_long (h : p.length > 3584) (s : State) :
    loadEvent (.bytes p) s = { s with loadResult := some .programOutOfRange } :=
  if_neg (mt programWellFormed_iff.mp h.not_ge)

end

/-- Settles O55: a program of at most 3584 bytes ends within memory, so that it does not wrap: it reads back
(`Memory.read_writeBytes_inside`) and nothing else is written (`read_store_outside`). -/
theorem loadEventEffects : Obligations.LoadEventEffects := by
  refine ⟨fun s p hp => ⟨loadOutcome_of_fits hp, _, congrArg Host.Outcome.next (loadEvent_of_fits hp s), rfl,
      ?inside, ?outside⟩,
    fun s p hp => ⟨loadOutcome_of_too_long hp, congrArg Host.Outcome.next (loadEvent_of_too_long hp s)⟩,
    fun s => ⟨rfl, rfl⟩, rfl, rfl, rfl⟩
  case inside =>
    have hlen : p.length ≤ memSize := hp.trans (by decide)
    exact Memory.read_writeBytes_inside s.mem programBase p hlen
  case outside =>
    have hfit : programBase + p.length ≤ 4096 := Nat.add_le_add_left hp 0x200
    exact fun a => read_store_outside s.mem programBase p hfit

end Sys2Proof.Machine

/-! PROOFS. The host's side (spec/70_reset_and_hazards.md R181 to R186, R193): the state at power-on, a Step of a Parked
engine, and a host that keeps the contract, which no event stops. -/

namespace Sys2Proof.Machine

/-! ### Power-on (R39, R181) -/

/-- In reset memory every byte above the font region is the free value `MEM_INIT` (R181, log 1). -/
theorem Memory.read_nil_upper {a : Nat} (ha : 80 ≤ a) (hlt : a < 4096) : Memory.read [] a = Config.memInit a := by
  have hm : a % memSize = a := Nat.mod_eq_of_lt hlt
  simp [Memory.read, Memory.listed, Memory.unlisted, hm, Nat.not_lt.mpr ha]

/-- Settles O2: the registers, the stack and the framebuffer are replicated zeros, and reset memory lists nothing: it
reads as the font (`Memory.read_nil_font`) and above it as `MEM_INIT` (`Memory.read_nil_upper`). -/
theorem powerOnResetState : Obligations.PowerOnResetState := by
  have hregs : ∀ r, State.reset.getV r = 0#8 := fun r => Vector.getElem_replicate r.isLt
  have hstack : ∀ (k : Nat) (h : k < 16), State.reset.stack[k] = 0#16 := fun k h => Vector.getElem_replicate h
  have hfb : ∀ k < 2048, State.reset.fb.cell k = false := fun k _ => Framebuffer.cell_clear k
  exact ⟨hregs, rfl, rfl, rfl, hstack, rfl, rfl, hfb, rfl, rfl, rfl, rfl, rfl, rfl, rfl, rfl, rfl,
    Memory.read_nil_font, fun a => Memory.read_nil_upper⟩

/-! ### A Step of a Parked engine (R193) -/

section
variable {s : State}

/-- A word with bits 15:12 zero (R23) fits an address field. -/
theorem setWidth_setWidth_of_lt {p : Word} (hp : p.toNat < 4096) : (p.setWidth 12).setWidth 16 = p :=
  BitVec.setWidth_setWidth_eq_self hp

/-- The word R193 calls a jump to itself is the encoding of the jump to `pc`: bits 15:12 of `pc` are zero (R23). -/
theorem jumpToSelf_eq_encode {p : Word} (hp : p.toNat < 4096) : 0x1000#16 ||| p = encode (.jp (p.setWidth 12)) := by
  have hword : encode (.jp (p.setWidth 12)) = (0x1#4).setWidth 16 <<< 12 ||| (p.setWidth 12).setWidth 16 :=
    BitVec.append_def _ _
  rw [hword, setWidth_setWidth_of_lt hp]
  rfl

theorem decode_fetch_of_parked (hpc : s.pc.toNat < 4096) (h : s.Parked) :
    decode (fetch s) = .ok (.jp (s.pc.setWidth 12)) := by
  obtain ⟨_, hfetch⟩ := h
  rw [hfetch, jumpToSelf_eq_encode hpc]
  exact decode_encode _

/-- The jump writes the `pc` it found, so that only `MODE` and the timer phase are left of the Step. -/
theorem step_of_parked (hpc : s.pc.toNat < 4096) (h : s.Parked) (hready : s.ReadyToStep) :
    step s = .next (timerPhase { s with mode := .running }) := by
  rw [step_of_ready hready, runCycle_of_decode (decode_fetch_of_parked hpc h), exec_jp, setWidth_setWidth_of_lt hpc]
  exact afterExec_not_halted (s := { s with mode := .running }) Mode.noConfusion

/-- The timer phase leaves `pc`, `MODE` and memory alone. -/
theorem State.Parked.timerPhase (h : s.Parked) : (timerPhase s).Parked := by
  rw [timerPhase_frame]
  exact h

end

/-- Settles O59: the Step is `MODE <- Running` and the timer phase (`step_of_parked`), which leaves `pc` and memory, and
under Decoupled is nothing. -/
theorem parkedStaysParked : Obligations.ParkedStaysParked := by
  intro s hinv hparked hready
  have ⟨_, hfetch⟩ := hparked
  have hrunning : State.Parked { s with mode := .running } := ⟨Mode.noConfusion, hfetch⟩
  refine ⟨_, step_of_parked hinv.pcLow hparked hready, hrunning.timerPhase, timerPhase_frame _, fun hmode => ?_⟩
  rw [timerPhase_decoupled (s := { s with mode := .running }) hmode]
  exact ⟨rfl, rfl, rfl⟩

/-! ### The record of the last Load (R183, R184, log 9) -/

section
variable {s t : State}

/-- Load puts the result it answers on record. -/
theorem loadEvent_loadResult (req : LoadRequest) (s : State) :
    (loadEvent req s).loadResult = some (loadOutcome req) := by
  cases req with
  | unreadable => rfl
  | bytes p =>
    by_cases hp : p.length ≤ 3584
    · rw [loadEvent_of_fits hp, loadOutcome_of_fits hp]
    · rw [loadEvent_of_too_long (not_le.mp hp), loadOutcome_of_too_long (not_le.mp hp)]

theorem loadFailed_loadEvent_of_ok {req : LoadRequest} (h : loadOutcome req = .ok) (s : State) :
    loadFailed (loadEvent req s) = false := by
  rw [loadFailed, loadEvent_loadResult, h]
  rfl

theorem exec_loadResult {i : Instr} (h : exec i s = .next t) : t.loadResult = s.loadResult := by
  obtain ⟨_, _, _, _, _, _, _, _, _, _, _, _, _, _, hload, _⟩ := instructionFrame i s t h
  exact hload

theorem timerPhase_loadResult (s : State) : (timerPhase s).loadResult = s.loadResult := by
  rw [timerPhase_frame]

/-- No Step writes the record. -/
theorem stepEvent_loadResult (h : stepEvent s = .next t) : t.loadResult = s.loadResult := by
  obtain ⟨_, rfl⟩ | ⟨_, _, ⟨i, u, _, hexec, ⟨_, rfl⟩ | ⟨_, rfl⟩⟩ | ⟨c, _, rfl⟩⟩ := stepEvent_cases h
  · rfl
  · exact exec_loadResult hexec
  · rw [timerPhase_loadResult, exec_loadResult hexec]
  · rw [timerPhase_loadResult, reportInvalid_loadResult]

/-- A Step stops the model only after a failed Load. -/
theorem stepEvent_answers (h : loadFailed s = false) : ∃ t, stepEvent s = .next t := by
  by_cases hmode : s.mode = .halted
  · exact ⟨s, stepEvent_halted hmode⟩
  · simpa [stepEvent, hmode, h] using runCycle_answers s

end

/-! ### The host's contract (R185, R186) -/

section
variable {p q : HostPhase} {e : Event} {s : State}

/-- A Load leads to `loaded` only when it answers Ok. -/
theorem HostPhase.loadOutcome_of_after_load {req : LoadRequest} (h : p.after (.load req) = some .loaded) :
    loadOutcome req = .ok := by
  cases p with
  | ready =>
    by_contra hfail
    simp [HostPhase.after, hfail] at h
  | powerOn | loaded | failed => cases h

theorem HostPhase.eq_loaded_of_after_step (h : p.after .step = some q) : p = .loaded := by
  by_contra hp
  simp [HostPhase.after, hp] at h

theorem HostPhase.eq_of_after_tick (h : p.after .tick = some q) : p = q := by
  cases p with
  | powerOn => cases h
  | ready | loaded | failed => exact Option.some.inj h

theorem HostPhase.exists_after_of_keeps {es : List Event} (h : p.keeps (e :: es) = true) :
    ∃ q, p.after e = some q ∧ q.keeps es = true := by
  cases hafter : p.after e with
  | none => simp [HostPhase.keeps, hafter] at h
  | some q => exact ⟨q, rfl, by simpa [HostPhase.keeps, hafter] using h⟩

/-- What the phase says of the machine: in `loaded`, the one phase with Steps, no failed Load is on record. -/
def HostPhase.Agrees (p : HostPhase) (s : State) : Prop := p = .loaded → loadFailed s = false

/-- An event the contract permits is answered, and its phase agrees with the answer. -/
theorem HostPhase.Agrees.applyEvent (h : p.Agrees s) (hafter : p.after e = some q) :
    ∃ t, applyEvent e s = .next t ∧ q.Agrees t := by
  cases e with
  | reset => exact ⟨resetEvent s, rfl, fun _ => rfl⟩
  | load req =>
    exact ⟨loadEvent req s, rfl, fun hq => loadFailed_loadEvent_of_ok (loadOutcome_of_after_load (hq ▸ hafter)) s⟩
  | step =>
    have hload : loadFailed s = false := h (eq_loaded_of_after_step hafter)
    obtain ⟨t, ht⟩ := stepEvent_answers hload
    refine ⟨t, ht, fun _ => ?_⟩
    rwa [loadFailed, stepEvent_loadResult ht]
  | tick =>
    obtain rfl := eq_of_after_tick hafter
    refine ⟨tickEvent s, rfl, ?_⟩
    rw [tickEvent_frame]
    exact h
  | hostKey | hostClearRedraw | hostClearBeep | presentRnd | presentKeyPick | writeStatus =>
    cases hafter
    exact ⟨_, rfl, h⟩

theorem runEvents_cons {es : List Event} {t : State} (h : applyEvent e s = .next t) :
    runEvents (e :: es) s = runEvents es t := by
  simp only [runEvents, h]

/-- Events that keep the contract are answered to their end. -/
theorem HostPhase.Agrees.runEvents_answers {es : List Event} (h : p.Agrees s) (hkeeps : p.keeps es = true) :
    ∃ t, runEvents es s = .next t := by
  induction es generalizing p s with
  | nil => exact ⟨s, rfl⟩
  | cons e es ih =>
    obtain ⟨q, hafter, hrest⟩ := exists_after_of_keeps hkeeps
    obtain ⟨t, happly, ht⟩ := h.applyEvent hafter
    rw [runEvents_cons happly]
    exact ih ht hrest

end

/-- Settles O58: at power-on, where no Step is permitted, any state will do; every permitted event keeps the phase in
agreement with the record of the last Load (`HostPhase.Agrees.applyEvent`), so that no Step follows a failed Load. -/
theorem contractHostNeverStops : Obligations.ContractHostNeverStops := fun _ s hkeeps =>
  have hpowerOn : HostPhase.powerOn.Agrees s := HostPhase.noConfusion
  hpowerOn.runEvents_answers hkeeps

end Sys2Proof.Machine
